-- ==== Sys2Proof/Word.lean ====
section
/-! DEFINITION. The data types of the core and their plainest arithmetic: a byte, a word of four bytes, a block of
sixteen bytes held as its four columns (spec 00_scope.md R9, R10; 10_state.md R22). -/

namespace Sys2Proof

/-- A byte `b[7:0]`, unsigned, bit 7 the most significant (R9). -/
abbrev Byte := BitVec 8

/-- The 32-bit command word `cmd[31:0]` (R70). -/
abbrev CmdWord := BitVec 32

/-- A word: a sequence of four bytes; `b0` is element 0, the "first byte" (R10). -/
structure Word where
  b0 : Byte
  b1 : Byte
  b2 : Byte
  b3 : Byte
deriving DecidableEq, Repr, Inhabited

/-- A block: a sequence of sixteen bytes, held as its four columns; column `c` is the elements
`4c .. 4c+3`, top row first (R10, R22, R56). -/
structure Block where
  c0 : Word
  c1 : Word
  c2 : Word
  c3 : Word
deriving DecidableEq, Repr, Inhabited

/-- The word of four zero bytes. -/
def Word.zero : Word := ⟨0, 0, 0, 0⟩

/-- Bytewise exclusive-or of two words (R9). -/
def Word.xor (x y : Word) : Word := ⟨x.b0 ^^^ y.b0, x.b1 ^^^ y.b1, x.b2 ^^^ y.b2, x.b3 ^^^ y.b3⟩

/-- The block of sixteen zero bytes. -/
def Block.zero : Block := ⟨Word.zero, Word.zero, Word.zero, Word.zero⟩

/-- Bytewise exclusive-or of two blocks (R9). -/
def Block.xor (x y : Block) : Block := ⟨x.c0.xor y.c0, x.c1.xor y.c1, x.c2.xor y.c2, x.c3.xor y.c3⟩

end Sys2Proof
end

