-- ==== Sys2Proof/Syntax.lean ====
section
/-! DEFINITION. The 30 commands of the core, one constructor per row of spec/opcode_table.json (30_encoding.md R76).
Operands are the 8-bit fields `a` and `b` of the command word, used as they stand (R74). -/

namespace Sys2Proof

/-- A command of the core (R76). -/
inductive Instr where
  /-- `STAT` (R215) -/
  | stat
  /-- `MUL2 a` (R98) -/
  | mul2 (a : Byte)
  /-- `GFMUL a, b` (R99) -/
  | gfmul (a b : Byte)
  /-- `SBOX a` (R109) -/
  | sbox (a : Byte)
  /-- `ISBOX a` (R110) -/
  | isbox (a : Byte)
  /-- `KEYLOAD` (R123) -/
  | keyload
  /-- `KWREAD a` (R124) -/
  | kwread (a : Byte)
  /-- `RKREAD a` (R125) -/
  | rkread (a : Byte)
  /-- `STLOAD` (R146) -/
  | stload
  /-- `STREAD` (R147) -/
  | stread
  /-- `SUBBYTES` (R148) -/
  | subbytes
  /-- `SHIFTROWS` (R149) -/
  | shiftrows
  /-- `MIXCOLS` (R150) -/
  | mixcols
  /-- `ADDRK a` (R151) -/
  | addrk (a : Byte)
  /-- `ISUBBYTES` (R152) -/
  | isubbytes
  /-- `ISHIFTROWS` (R153) -/
  | ishiftrows
  /-- `IMIXCOLS` (R154) -/
  | imixcols
  /-- `FROUND a` (R155) -/
  | fround (a : Byte)
  /-- `FFINAL a` (R156) -/
  | ffinal (a : Byte)
  /-- `IROUND a` (R157) -/
  | iround (a : Byte)
  /-- `IFINAL a` (R158) -/
  | ifinal (a : Byte)
  /-- `ENCB` (R169) -/
  | encb
  /-- `DECB` (R170) -/
  | decb
  /-- `PENCB a` (R171) -/
  | pencb (a : Byte)
  /-- `PAD` (R182) -/
  | pad
  /-- `UNPAD` (R183) -/
  | unpad
  /-- `MINIT a, b`: mode number `a`, IV source `b` (R191) -/
  | minit (a b : Byte)
  /-- `MENC` (R200) -/
  | menc
  /-- `MDEC` (R201) -/
  | mdec
  /-- `IVREAD` (R203) -/
  | ivread
deriving DecidableEq, Repr

end Sys2Proof
end

