-- ==== Sys2Proof/WellFormed.lean ====
section
/-! DEFINITION. Which terms of `Instr` are commands. Every operand is a whole 8-bit field (R74), so the type already
bounds it; the one further restriction of the encoding is that the IV source of `MINIT` is 0 or 1 (R73). -/

namespace Sys2Proof

/-- The IV-source operand of `MINIT` must have `b[7:1]` zero (R73). -/
def ivSourceOk (b : Byte) : Bool := decide (b.toNat ≤ 1)

/-- The command is one that the encoding can express (R70-R74). -/
def Instr.wf : Instr → Bool
  | .stat => true
  | .mul2 _ => true
  | .gfmul _ _ => true
  | .sbox _ => true
  | .isbox _ => true
  | .keyload => true
  | .kwread _ => true
  | .rkread _ => true
  | .stload => true
  | .stread => true
  | .subbytes => true
  | .shiftrows => true
  | .mixcols => true
  | .addrk _ => true
  | .isubbytes => true
  | .ishiftrows => true
  | .imixcols => true
  | .fround _ => true
  | .ffinal _ => true
  | .iround _ => true
  | .ifinal _ => true
  | .encb => true
  | .decb => true
  | .pencb _ => true
  | .pad => true
  | .unpad => true
  | .minit _ b => ivSourceOk b
  | .menc => true
  | .mdec => true
  | .ivread => true

end Sys2Proof
end

