-- ==== Sys2Proof/Decode.lean ====
section
/-! DEFINITION. The decoder (30_encoding.md R75), total on all 2^32 command words and rejecting by name; after it the
encoder (R70-R73, R76), and the match and mask of every row of spec/opcode_table.json. -/

namespace Sys2Proof

/-- The three operand formats of a command word (R71, R72, R73). -/
inductive Format where
  | z | a | ab
deriving DecidableEq, Repr

/-- Why a word is not a command (R75, R77). All of them are the one architectural error `IllegalCommand`. -/
inductive DecodeError where
  /-- `op` is none of the 30 opcodes (R77 (a)). -/
  | reservedOpcode
  /-- `c` is not zero (R77 (b)). -/
  | nonzeroC
  /-- format Z with a nonzero `a` or `b` (R77 (b)). -/
  | nonzeroOperandInZ
  /-- format A with a nonzero `b` (R77 (b)). -/
  | nonzeroBInA
  /-- `MINIT` with `b > 1` (R77 (c)). -/
  | ivSourceAboveOne
deriving DecidableEq, Repr

/-- The field `op = cmd[31:24]` (R70). -/
def opField (cmd : CmdWord) : Byte := cmd.extractLsb' 24 8

/-- The field `a = cmd[23:16]` (R70). -/
def aField (cmd : CmdWord) : Byte := cmd.extractLsb' 16 8

/-- The field `b = cmd[15:8]` (R70). -/
def bField (cmd : CmdWord) : Byte := cmd.extractLsb' 8 8

/-- The field `c = cmd[7:0]` (R70). -/
def cField (cmd : CmdWord) : Byte := cmd.extractLsb' 0 8

/-- The opcode map: the format and the command that an opcode selects (R76); `none` for a reserved opcode. -/
def opcodeRow (op a b : Byte) : Option (Format × Instr) :=
  match op.toNat with
  | 0x01 => some (.z, .stat)
  | 0x10 => some (.a, .mul2 a)
  | 0x11 => some (.ab, .gfmul a b)
  | 0x20 => some (.a, .sbox a)
  | 0x21 => some (.a, .isbox a)
  | 0x30 => some (.z, .keyload)
  | 0x31 => some (.a, .kwread a)
  | 0x32 => some (.a, .rkread a)
  | 0x40 => some (.z, .stload)
  | 0x41 => some (.z, .stread)
  | 0x42 => some (.z, .subbytes)
  | 0x43 => some (.z, .shiftrows)
  | 0x44 => some (.z, .mixcols)
  | 0x45 => some (.a, .addrk a)
  | 0x46 => some (.z, .isubbytes)
  | 0x47 => some (.z, .ishiftrows)
  | 0x48 => some (.z, .imixcols)
  | 0x49 => some (.a, .fround a)
  | 0x4A => some (.a, .ffinal a)
  | 0x4B => some (.a, .iround a)
  | 0x4C => some (.a, .ifinal a)
  | 0x50 => some (.z, .encb)
  | 0x51 => some (.z, .decb)
  | 0x52 => some (.a, .pencb a)
  | 0x60 => some (.z, .pad)
  | 0x61 => some (.z, .unpad)
  | 0x70 => some (.ab, .minit a b)
  | 0x71 => some (.z, .menc)
  | 0x72 => some (.z, .mdec)
  | 0x73 => some (.z, .ivread)
  | _ => none

/-- The decoder, its checks in the order of R75. Whether a word is a command depends on the word alone. -/
def decode (cmd : CmdWord) : Except DecodeError Instr :=
  match opcodeRow (opField cmd) (aField cmd) (bField cmd) with
  | none => .error .reservedOpcode
  | some (format, i) =>
    if cField cmd ≠ 0 then .error .nonzeroC
    else if format = .z ∧ (aField cmd ≠ 0 ∨ bField cmd ≠ 0) then .error .nonzeroOperandInZ
    else if format = .a ∧ bField cmd ≠ 0 then .error .nonzeroBInA
    else if opField cmd = 0x70 ∧ 1 < (bField cmd).toNat then .error .ivSourceAboveOne
    else .ok i

/-- The instruction that the decoder reads from a table row's word: a command is one 32-bit word (R70, R78), so the
bits above `nbits` are zero and a longer row does not exist. -/
def decodeTableWord (nbits w : Nat) : Option Instr :=
  if nbits ≤ 32 then
    match decode (BitVec.ofNat 32 (w % 2 ^ nbits)) with
    | .ok i => some i
    | .error _ => none
  else none

/-- The opcode of a command (R76). -/
def opcodeOf : Instr → Byte
  | .stat => 0x01
  | .mul2 _ => 0x10
  | .gfmul _ _ => 0x11
  | .sbox _ => 0x20
  | .isbox _ => 0x21
  | .keyload => 0x30
  | .kwread _ => 0x31
  | .rkread _ => 0x32
  | .stload => 0x40
  | .stread => 0x41
  | .subbytes => 0x42
  | .shiftrows => 0x43
  | .mixcols => 0x44
  | .addrk _ => 0x45
  | .isubbytes => 0x46
  | .ishiftrows => 0x47
  | .imixcols => 0x48
  | .fround _ => 0x49
  | .ffinal _ => 0x4A
  | .iround _ => 0x4B
  | .ifinal _ => 0x4C
  | .encb => 0x50
  | .decb => 0x51
  | .pencb _ => 0x52
  | .pad => 0x60
  | .unpad => 0x61
  | .minit _ _ => 0x70
  | .menc => 0x71
  | .mdec => 0x72
  | .ivread => 0x73

/-- The fields `a` and `b` of a command's word: its operands, and zero where the format has none (R71-R74). -/
def operandsOf : Instr → Byte × Byte
  | .mul2 a => (a, 0)
  | .gfmul a b => (a, b)
  | .sbox a => (a, 0)
  | .isbox a => (a, 0)
  | .kwread a => (a, 0)
  | .rkread a => (a, 0)
  | .addrk a => (a, 0)
  | .fround a => (a, 0)
  | .ffinal a => (a, 0)
  | .iround a => (a, 0)
  | .ifinal a => (a, 0)
  | .pencb a => (a, 0)
  | .minit a b => (a, b)
  | .stat | .keyload | .stload | .stread | .subbytes | .shiftrows | .mixcols | .isubbytes | .ishiftrows | .imixcols
  | .encb | .decb | .pad | .unpad | .menc | .mdec | .ivread => (0, 0)

/-- The command word of four fields, `op·2^24 + a·2^16 + b·2^8 + c` (R70). -/
def wordOfFields (op a b c : Byte) : CmdWord := ((op ++ a) ++ b) ++ c

/-- The encoder: the command word of a command (R70-R73, R76). -/
def encode (i : Instr) : CmdWord := wordOfFields (opcodeOf i) (operandsOf i).1 (operandsOf i).2 0

/-- The mnemonic of a command, as spec/opcode_table.json spells it. -/
def mnemonicOf : Instr → String
  | .stat => "STAT"
  | .mul2 _ => "MUL2"
  | .gfmul _ _ => "GFMUL"
  | .sbox _ => "SBOX"
  | .isbox _ => "ISBOX"
  | .keyload => "KEYLOAD"
  | .kwread _ => "KWREAD"
  | .rkread _ => "RKREAD"
  | .stload => "STLOAD"
  | .stread => "STREAD"
  | .subbytes => "SUBBYTES"
  | .shiftrows => "SHIFTROWS"
  | .mixcols => "MIXCOLS"
  | .addrk _ => "ADDRK"
  | .isubbytes => "ISUBBYTES"
  | .ishiftrows => "ISHIFTROWS"
  | .imixcols => "IMIXCOLS"
  | .fround _ => "FROUND"
  | .ffinal _ => "FFINAL"
  | .iround _ => "IROUND"
  | .ifinal _ => "IFINAL"
  | .encb => "ENCB"
  | .decb => "DECB"
  | .pencb _ => "PENCB"
  | .pad => "PAD"
  | .unpad => "UNPAD"
  | .minit _ _ => "MINIT"
  | .menc => "MENC"
  | .mdec => "MDEC"
  | .ivread => "IVREAD"

/-- A row of spec/opcode_table.json: a word is the row's when `word & mask = match`. -/
structure TableRow where
  mnemonic : String
  matchBits : CmdWord
  mask : CmdWord
deriving DecidableEq, Repr

/-- The 30 rows of spec/opcode_table.json, as the table gives them. The decoder does not use this list: it is a second
transcription of the encoding, against which the decoder is compared. -/
def opcodeTable : List TableRow :=
  [⟨"STAT", 0x01000000, 0xFFFFFFFF⟩, ⟨"MUL2", 0x10000000, 0xFF00FFFF⟩, ⟨"GFMUL", 0x11000000, 0xFF0000FF⟩,
   ⟨"SBOX", 0x20000000, 0xFF00FFFF⟩, ⟨"ISBOX", 0x21000000, 0xFF00FFFF⟩, ⟨"KEYLOAD", 0x30000000, 0xFFFFFFFF⟩,
   ⟨"KWREAD", 0x31000000, 0xFF00FFFF⟩, ⟨"RKREAD", 0x32000000, 0xFF00FFFF⟩, ⟨"STLOAD", 0x40000000, 0xFFFFFFFF⟩,
   ⟨"STREAD", 0x41000000, 0xFFFFFFFF⟩] ++
  [⟨"SUBBYTES", 0x42000000, 0xFFFFFFFF⟩, ⟨"SHIFTROWS", 0x43000000, 0xFFFFFFFF⟩, ⟨"MIXCOLS", 0x44000000, 0xFFFFFFFF⟩,
   ⟨"ADDRK", 0x45000000, 0xFF00FFFF⟩, ⟨"ISUBBYTES", 0x46000000, 0xFFFFFFFF⟩, ⟨"ISHIFTROWS", 0x47000000, 0xFFFFFFFF⟩,
   ⟨"IMIXCOLS", 0x48000000, 0xFFFFFFFF⟩, ⟨"FROUND", 0x49000000, 0xFF00FFFF⟩, ⟨"FFINAL", 0x4A000000, 0xFF00FFFF⟩,
   ⟨"IROUND", 0x4B000000, 0xFF00FFFF⟩] ++
  [⟨"IFINAL", 0x4C000000, 0xFF00FFFF⟩, ⟨"ENCB", 0x50000000, 0xFFFFFFFF⟩, ⟨"DECB", 0x51000000, 0xFFFFFFFF⟩,
   ⟨"PENCB", 0x52000000, 0xFF00FFFF⟩, ⟨"PAD", 0x60000000, 0xFFFFFFFF⟩, ⟨"UNPAD", 0x61000000, 0xFFFFFFFF⟩,
   ⟨"MINIT", 0x70000000, 0xFF00FEFF⟩, ⟨"MENC", 0x71000000, 0xFFFFFFFF⟩, ⟨"MDEC", 0x72000000, 0xFFFFFFFF⟩,
   ⟨"IVREAD", 0x73000000, 0xFFFFFFFF⟩]

/-- The word matches the row. -/
def TableRow.matches (r : TableRow) (cmd : CmdWord) : Bool := decide (cmd &&& r.mask = r.matchBits)

end Sys2Proof
end

