-- ==== Sys2Proof/Config.lean ====
section
/-! DEFINITION. What lies outside the core and is fixed by no rule: the bytes the secure random source supplies.
The parameters that the spec fixes (R6, R7) are literals of the definitions that use them; the open parameter `BUFCAP`
(R8 (a)) is the field `State.bufcap`, so that every statement holds for every capacity; `BUSMAP` (R8 (c)) is used by no rule. -/

namespace Sys2Proof

/-- The sixteen bytes that the random source supplies at its `n`-th draw when no test injection is in force
(R8 (b), R240; 93_implementation_defined.md U3): a FREE VALUE under no law, so it has no body. Log entry 2.
One sequence of draws serves every core and every run: two cores at the same draw number are given the same bytes, which
R240 does not say. DESIGN CHOICE, log entry 15. -/
opaque Config.randomBlock : Nat → Block

end Sys2Proof
end

