-- ==== Sys2Proof/Machine/State.lean ====
section
/-! DEFINITION. The state of the machine as plain data: the fourteen registers and buffers of the core (10_state.md R20),
and beside them what stands outside the core and acts on it (00_scope.md R12): the host's pending actions, the random
source and the capacity parameter. Also the reset state, and the reasons for which a step can stop. -/

namespace Sys2Proof.Machine

/-- The chaining modes, a closed enumeration (R190); their numbers are `Mode.code`. DEDUCED, log entry 4. -/
inductive Mode where
  | ecb | cbc | cfb | ofb
deriving DecidableEq, Repr

/-- The validation errors that a command can raise (R220); their codes are `Error.code`. -/
inductive Error where
  /-- raised by `KEYLOAD` (R221) -/
  | invalidKeyLength
  /-- raised by `STLOAD`, `ENCB`, `DECB`, `PENCB` (R222) -/
  | invalidBlockLength
  /-- raised by `MDEC` (R223) -/
  | invalidCiphertextLength
  /-- raised by `UNPAD`, `MDEC` (R227) -/
  | paddingError
  /-- raised by `MINIT` (R229) -/
  | unsupportedMode
  /-- raised by `MINIT` (R231) -/
  | invalidIVLength
  /-- raised by the commands that need a key, a mode or an IV (R225) -/
  | notReady
  /-- raised by the decoder (R232) -/
  | illegalCommand
  /-- raised by the commands with an index operand (R224) -/
  | operandRange
deriving DecidableEq, Repr

/-- What the host can do to the core: exactly reset, write `DIN`, issue a command word, and read `RESP` or `DOUT`
(R12). The last one is no action on the core: it is the test injection of the script notation (R79, `RND`). -/
inductive HostAction where
  /-- `HostReset` (R250) -/
  | reset
  /-- `HostWriteDIN(X)` (R52) -/
  | writeDin (x : List Byte)
  /-- `HostIssue(cmd)` (R75) -/
  | issue (cmd : CmdWord)
  /-- the host reads `RESP` (R53) -/
  | readResp
  /-- the host reads `DOUT` (R53) -/
  | readDout
  /-- `RND`: fixes the bytes that the random source supplies to the next draw (R79) -/
  | supplyRnd (rnd : Block)
deriving DecidableEq, Repr

/-- What a read gave the host (R53). -/
inductive Reading where
  | resp (code : Byte)
  | dout (data : List Byte)
deriving DecidableEq, Repr

/-- The host's side of the interface. It is no state of the core (R20). -/
structure HostSide where
  /-- The actions the host has yet to take, the next one first. -/
  pending : List HostAction
  /-- What the host has read so far, the newest reading first. -/
  readings : List Reading
deriving DecidableEq, Repr

/-- The secure random source (R240). It is no state of the core (R20, R41 (c)). -/
structure RandomSource where
  /-- The bytes a test has fixed for the next draw (R79, `RND`); `none` where none are fixed. -/
  injected : Option Block
  /-- How many draws have been made: it picks the next free value. -/
  draws : Nat
deriving DecidableEq, Repr

/-- The state of the machine. -/
structure State where
  /-- `STATE`, 16 bytes: the working state of the round engine (R22) -/
  state : Block
  /-- `W`, 60 words of 4 bytes: the key and the key schedule word array (R27) -/
  w : Vector Word 60
  /-- `KEY_VALID`, 1 bit: a key has been loaded and expanded (R24) -/
  keyValid : Bool
  /-- `KLEN`, 8-bit number: the key length in bytes (R25) -/
  klen : Byte
  /-- `NK`, 8-bit number: the key length in words (R25) -/
  nk : Byte
  /-- `NR`, 8-bit number: the number of rounds (R25) -/
  nr : Byte
  /-- `MODE`: the chaining mode; it can hold only the four modes (R30) -/
  mode : Mode
  /-- `MODE_VALID`, 1 bit: the mode layer has been constructed (R30) -/
  modeValid : Bool
  /-- `IV`, 16 bytes: the initialisation vector (R31) -/
  iv : Block
  /-- `IV_VALID`, 1 bit: `IV` holds an IV in use (R31) -/
  ivValid : Bool
  /-- `FB`, 16 bytes: the feedback register (R33) -/
  fb : Block
  /-- `DIN`, a byte sequence: the input data buffer (R34) -/
  din : List Byte
  /-- `DOUT`, a byte sequence: the output data buffer (R35) -/
  dout : List Byte
  /-- `RESP`, 8-bit number: the response code of the last command (R36) -/
  resp : Byte
  /-- The host's side: pending actions and readings (R12). The model's own field. Log entry 1. -/
  host : HostSide
  /-- The random source (R240). The model's own field. Log entry 2. -/
  rng : RandomSource
  /-- `BUFCAP`, the capacity of `DIN` and `DOUT` in bytes; `none`: no bound (R8 (a)). A parameter: no step changes it.
  The model's own field. Log entry 3. -/
  bufcap : Option Nat
deriving DecidableEq, Repr

/-- The reasons for which the machine stops with a fault: there is none. Every error of the spec is a rejection that
writes `RESP` and goes on (R228, R233); no rule stops the core. DEDUCED, log entry 7. -/
inductive Fault where
deriving DecidableEq, Repr

/-- The reasons for which the model gives a step no meaning. -/
inductive Refusal where
  /-- Raised only by an arm of `exec` whose instruction has no meaning yet. No arm is left so. Safe. -/
  | notModelled (mnemonic : String)
  /-- Raised by `HostWriteDIN` and `HostIssue` where the input or the output would exceed a finite `BUFCAP`: "a model
  that takes `BUFCAP` as a parameter must *refuse* such a command (no step)" (R8 (a)). Never raised while `bufcap` is
  `none`, as it is at reset. Safe. -/
  | bufferCapacity
deriving DecidableEq, Repr

/-- The outcome of a step or a command. -/
abbrev Result := Host.Outcome State Fault Refusal

/-- The machine right after reset (R42, R250): all storage cleared, flags 0, the buffers empty. The last three fields
are the model's own: no host action pending, no draw made, no bound on the buffers (log entries 1, 2, 3). -/
def State.reset : State :=
  { state := Block.zero
    w := Vector.replicate 60 Word.zero
    keyValid := false
    klen := 0
    nk := 0
    nr := 0
    mode := .ecb
    modeValid := false
    iv := Block.zero
    ivValid := false
    fb := Block.zero
    din := []
    dout := []
    resp := 0x00
    host := ⟨[], []⟩
    rng := ⟨none, 0⟩
    bufcap := none }

end Sys2Proof.Machine
end

