-- ==== Sys2Proof/Machine/Ops.lean ====
section
/-! DEFINITION. The operations every command is built from: byte order of words and blocks, reads and writes of the
buffers and of the key schedule, the two ways a command ends (success, rejection), and the draw of random bytes. -/

namespace Sys2Proof.Machine

/-! ### Byte order (R10, R22, R56) -/

/-- The four bytes of a word, element 0 first (R10). -/
def wordBytes (x : Word) : List Byte := [x.b0, x.b1, x.b2, x.b3]

/-- The sixteen bytes of a block in index order: column by column, top row first (R22, R56). -/
def blockBytes (x : Block) : List Byte := wordBytes x.c0 ++ wordBytes x.c1 ++ wordBytes x.c2 ++ wordBytes x.c3

/-- The word of the first four bytes of a sequence (used only where they exist). -/
def wordOfBytes (x : List Byte) : Word := ⟨x.getD 0 0, x.getD 1 0, x.getD 2 0, x.getD 3 0⟩

/-- The block of the first sixteen bytes of a sequence (used only where they exist, R54). -/
def blockOfBytes (x : List Byte) : Block :=
  ⟨wordOfBytes x, wordOfBytes (x.drop 4), wordOfBytes (x.drop 8), wordOfBytes (x.drop 12)⟩

/-- Element `i` of a block, `x[i]`: row `i mod 4`, column `i div 4` (R22). -/
def byteAt (x : Block) (i : Nat) : Byte := (blockBytes x).getD i 0

/-- The first `n` blocks of a sequence (R56: block `i` is `X[16i .. 16i+15]`). -/
def takeBlocks : Nat → List Byte → List Block
  | 0, _ => []
  | n + 1, x => blockOfBytes x :: takeBlocks n (x.drop 16)

/-- The blocks of a sequence whose length is a multiple of 16 (R56, R57). -/
def blocksOf (x : List Byte) : List Block := takeBlocks (x.length / 16) x

/-- The bytes of a sequence of blocks, one block after the other (R56). -/
def bytesOfBlocks (bs : List Block) : List Byte := bs.flatMap blockBytes

/-! ### Named updates of the state -/

/-- `RESP <- v` -/
def State.setResp (s : State) (v : Byte) : State := { s with resp := v }

/-- `DOUT <- v`: `MemWrite(DOUT, v)` replaces the whole buffer (R55). -/
def State.setDout (s : State) (v : List Byte) : State := { s with dout := v }

/-- `STATE <- v` -/
def State.setState (s : State) (v : Block) : State := { s with state := v }

/-- `FB <- v` -/
def State.setFb (s : State) (v : Block) : State := { s with fb := v }

/-- `W`, `KLEN`, `NK`, `NR` are written together and `KEY_VALID <- 1` (R25, R123). -/
def State.setKey (s : State) (w : Vector Word 60) (klen nk nr : Byte) : State :=
  { s with w := w, klen := klen, nk := nk, nr := nr, keyValid := true }

/-- `MODE`, `IV`, `IV_VALID` and `FB <- IV` are written together and `MODE_VALID <- 1` (R191). -/
def State.setMode (s : State) (mode : Mode) (iv : Block) (ivValid : Bool) : State :=
  { s with mode := mode, modeValid := true, iv := iv, ivValid := ivValid, fb := iv }

/-- `DIN <- v` (R52) -/
def State.setDin (s : State) (v : List Byte) : State := { s with din := v }

/-- The host's side becomes `v`. -/
def State.setHost (s : State) (v : HostSide) : State := { s with host := v }

/-- The random source becomes `v`. -/
def State.setRng (s : State) (v : RandomSource) : State := { s with rng := v }

/-! ### How a command ends -/

/-- The response code of an error (R220). Success is code 0x00. -/
def Error.code : Error → Byte
  | .invalidKeyLength => 0x01
  | .invalidBlockLength => 0x02
  | .invalidCiphertextLength => 0x03
  | .paddingError => 0x04
  | .unsupportedMode => 0x05
  | .invalidIVLength => 0x06
  | .notReady => 0x07
  | .illegalCommand => 0x08
  | .operandRange => 0x09

/-- `raise <Error>`: the command is rejected. `RESP <- code`, and no other register, buffer or flag changes; there is
no vector, handler, saved state or mode change, hence also no return (R11, R228, R233). -/
def raiseError (e : Error) (s : State) : Result := .next (s.setResp e.code)

/-- `return`: the command ends with success; its writes commit and `RESP <- 0x00` (R11, R13, R228). -/
def complete (s : State) : Result := .next (s.setResp 0x00)

/-! ### The key schedule word array as storage (R27, R28, R121) -/

/-- `W[i]`. Indices of 60 and more are not read in a state that a run can reach (R50): there the zero
word is a DESIGN CHOICE, log entry 5. -/
def wordAt (w : Vector Word 60) (i : Nat) : Word := (w[i]?).getD Word.zero

/-- Round key `r`, the view `W[4r] ++ W[4r+1] ++ W[4r+2] ++ W[4r+3]`: word `4r + c` is column `c` (R28, R121). -/
def roundKey (w : Vector Word 60) (r : Nat) : Block :=
  ⟨wordAt w (4 * r), wordAt w (4 * r + 1), wordAt w (4 * r + 2), wordAt w (4 * r + 3)⟩

/-! ### The random source (R240) -/

/-- The sixteen bytes of the next draw: those a test has fixed, else the free value of this draw. DESIGN CHOICE, log
entry 2; that two cores at the same draw number draw the same block is log entry 15. -/
def nextRnd (g : RandomSource) : Block :=
  match g.injected with
  | some rnd => rnd
  | none => Config.randomBlock g.draws

/-- The source after a draw: an injection serves one draw only (R79, "the next `MINIT` that draws"). -/
def afterDraw (g : RandomSource) : RandomSource := ⟨none, g.draws + 1⟩

end Sys2Proof.Machine
end

