-- ==== Sys2Proof/Machine/Flags.lean ====
section
/-! DEFINITION. The one-bit status values `KEY_VALID`, `MODE_VALID`, `IV_VALID`: their byte form and the `NotReady`
conditions that read them (10_state.md R37, 60_exceptions.md R225). The core has no arithmetic flags (R37). -/

namespace Sys2Proof.Machine

/-- A flag as the byte 0x00 or 0x01 (R215). -/
def flagByte (f : Bool) : Byte := if f then 0x01 else 0x00

/-- `KEY_VALID = 1`: a key is loaded (R24). -/
def keyReady (s : State) : Bool := s.keyValid

/-- A key is loaded and the mode layer is constructed: what `MENC` and `MDEC` need (R200, R201, R225). -/
def messageReady (s : State) : Bool := s.keyValid && s.modeValid

/-- The mode layer is constructed and has an IV: what `IVREAD` needs (R203, R225). -/
def ivReady (s : State) : Bool := s.modeValid && s.ivValid

end Sys2Proof.Machine
end

