-- ==== Sys2Proof/Machine/Operands.lean ====
section
/-! DEFINITION. The operand forms: an index into the key schedule, a round-key index, a mode number, an IV source
(30_encoding.md R74), and the contents of `DIN` taken as one block (20_memory.md R54, R57). -/

namespace Sys2Proof.Machine

/-- The word index `a` addresses the loaded schedule: `a < 4·(NR+1)` (R124, R224). -/
def wordIndexOk (s : State) (a : Byte) : Bool := decide (a.toNat < 4 * (s.nr.toNat + 1))

/-- The round-key index `a` addresses the loaded schedule: `a ≤ NR` (R125, R224). -/
def roundIndexOk (s : State) (a : Byte) : Bool := decide (a.toNat ≤ s.nr.toNat)

/-- The mode that a mode number selects: ECB = 0, CBC = 1, CFB = 2, OFB = 3, no other (R190). -/
def modeOfOperand (a : Byte) : Option Mode :=
  match a.toNat with
  | 0 => some .ecb
  | 1 => some .cbc
  | 2 => some .cfb
  | 3 => some .ofb
  | _ => none

/-- The number of a mode, as the register `MODE` shows it (R30, R190). -/
def Mode.code : Mode → Byte
  | .ecb => 0
  | .cbc => 1
  | .cfb => 2
  | .ofb => 3

/-- The IV source `b = 0`: the IV is the contents of `DIN` (R191). -/
def ivFromDin (b : Byte) : Bool := decide (b = 0)

/-- The contents of `DIN` as one block, where its length is exactly 16 (R54, R57). -/
def dinBlock (s : State) : Option Block := if s.din.length = 16 then some (blockOfBytes s.din) else none

/-- The checks of a command with a round-key index, in their order: `NotReady`, then `OperandRange` (R226); then
`f` is applied to the round key, and its block is written to `STATE` (R151, R155-R158). -/
def transformWithRoundKey (s : State) (a : Byte) (f : Block → Block → Block) : Result :=
  if keyReady s = false then raiseError .notReady s
  else if roundIndexOk s a = false then raiseError .operandRange s
  else complete (s.setState (f s.state (roundKey s.w a.toNat)))

/-- The checks of a command that runs the cipher engine on the block in `DIN`, in their order: `NotReady`, then
`InvalidBlockLength` (R226); then the engine's output is written to `STATE` and to `DOUT` (R168-R171). -/
def runEngine (s : State) (engine : Block → Block) : Result :=
  if keyReady s = false then raiseError .notReady s
  else
    match dinBlock s with
    | none => raiseError .invalidBlockLength s
    | some x => complete ((s.setState (engine x)).setDout (blockBytes (engine x)))

end Sys2Proof.Machine
end

