-- ==== Sys2Proof/Machine/GaloisField.lean ====
section
/-! DEFINITION. The GF(2^8) multiplier and its commands `MUL2`, `GFMUL` (40_gf_arithmetic.md). Every product is built
from `mul2` and exclusive-or (R101). -/

namespace Sys2Proof.Machine

/-- `mul2`: shift left by one; where the high bit was set, exclusive-or with the reduction constant 0x1B (R90). -/
def mul2 (a : Byte) : Byte := (a <<< 1) ^^^ (if a.getLsbD 7 then 0x1B else 0x00)

/-- `mul2^k`: `mul2` applied `k` times (R91). -/
def mul2Pow : Nat → Byte → Byte
  | 0, a => a
  | k + 1, a => mul2 (mul2Pow k a)

/-- `mul4` (R91) -/
def mul4 (a : Byte) : Byte := mul2 (mul2 a)

/-- `mul8` (R91) -/
def mul8 (a : Byte) : Byte := mul2 (mul2 (mul2 a))

/-- `mul3` (R92) -/
def mul3 (a : Byte) : Byte := mul2 a ^^^ a

/-- `mul9` (R93) -/
def mul9 (a : Byte) : Byte := mul8 a ^^^ a

/-- `mul11` (R94) -/
def mul11 (a : Byte) : Byte := mul8 a ^^^ mul2 a ^^^ a

/-- `mul13` (R95) -/
def mul13 (a : Byte) : Byte := mul8 a ^^^ mul4 a ^^^ a

/-- `mul14` (R96) -/
def mul14 (a : Byte) : Byte := mul8 a ^^^ mul4 a ^^^ mul2 a

/-- The exclusive-or of `mul2^k(a)` over the bit positions `k < n` at which `b` has a one. -/
def gmulUpTo (a b : Byte) : Nat → Byte
  | 0 => 0x00
  | n + 1 => gmulUpTo a b n ^^^ (if b.getLsbD n then mul2Pow n a else 0x00)

/-- `gmul`, the product in GF(2^8): all eight bit positions (R97). -/
def gmul (a b : Byte) : Byte := gmulUpTo a b 8

/-- `MUL2 a` (R98) -/
def execMul2 (a : Byte) (s : State) : Result := complete (s.setDout [mul2 a])

/-- `GFMUL a, b` (R99) -/
def execGfmul (a b : Byte) (s : State) : Result := complete (s.setDout [gmul a b])

end Sys2Proof.Machine
end

