-- ==== Sys2Proof/Machine/KeySchedule.lean ====
section
/-! DEFINITION. The key schedule word generator and the commands `KEYLOAD`, `KWREAD`, `RKREAD` (42_key_schedule.md). -/

namespace Sys2Proof.Machine

/-- The round constants `RCON[1 .. 14]` (R115). -/
def rconTable : List Byte := [0x01, 0x02, 0x04, 0x08, 0x10, 0x20, 0x40, 0x80, 0x1b, 0x36, 0x6c, 0xd8, 0xab, 0x4d]

/-- `RCON[j]`, `j ≥ 1` (R115). The expansion reads only `j ≤ 10` (R122). -/
def rcon (j : Nat) : Byte := rconTable.getD (j - 1) 0

/-- `Nk` and `Nr` of a key of `len` bytes; any other length is no key (R25, R116). -/
def keyParams (len : Nat) : Option (Nat × Nat) :=
  if len = 16 then some (4, 10)
  else if len = 24 then some (6, 12)
  else if len = 32 then some (8, 14)
  else none

/-- `RotWord`: left-rotate by one byte (R117). -/
def rotWord (x : Word) : Word := ⟨x.b1, x.b2, x.b3, x.b0⟩

/-- `SubWord`: substitute each byte by the forward table (R118). -/
def subWord (x : Word) : Word := ⟨sboxTable x.b0, sboxTable x.b1, sboxTable x.b2, sboxTable x.b3⟩

/-- `Core(w, j)`: rotate, substitute, exclusive-or the first byte with the round constant (R119). -/
def coreWord (x : Word) (j : Nat) : Word := (subWord (rotWord x)).xor ⟨rcon j, 0x00, 0x00, 0x00⟩

/-- What word `i ≥ Nk` of the schedule adds to word `i - Nk`: the previous word `t`, transformed at the positions the
expansion says; the second branch is for `Nk = 8` only (R120). -/
def scheduleTransform (nk i : Nat) (t : Word) : Word :=
  if i % nk = 0 then coreWord t (i / nk)
  else if nk = 8 ∧ i % nk = 4 then subWord t
  else t

/-- The next word of the schedule after the words `ws`, which are `w[0 .. i-1]` (R120). -/
def nextWord (nk : Nat) (ws : List Word) : Word :=
  (scheduleTransform nk ws.length (ws.getD (ws.length - 1) Word.zero)).xor (ws.getD (ws.length - nk) Word.zero)

/-- `n` further words of the schedule, in ascending order (R120). -/
def extendWords (nk : Nat) : Nat → List Word → List Word
  | 0, ws => ws
  | n + 1, ws => extendWords nk n (ws ++ [nextWord nk ws])

/-- The first `n` words of a byte sequence: word `i` is the bytes `4i .. 4i+3` (R26, R120). -/
def wordsOfBytes : Nat → List Byte → List Word
  | 0, _ => []
  | n + 1, x => wordOfBytes x :: wordsOfBytes n (x.drop 4)

/-- `ExpandKey`: the `Nk` words of the key, then words up to `4·(Nr+1)` in all (R120). -/
def expandKey (nk nr : Nat) (key : List Byte) : List Word :=
  extendWords nk (4 * (nr + 1) - nk) (wordsOfBytes nk key)

/-- The register `W` holding the words `ws`, with zero words above them (R27, R123). -/
def scheduleRegister (ws : List Word) : Vector Word 60 := Vector.ofFn fun i => ws.getD i.val Word.zero

/-- `KEYLOAD` (R123) -/
def execKeyload (s : State) : Result :=
  match keyParams s.din.length with
  | none => raiseError .invalidKeyLength s
  | some (nk, nr) =>
    complete (s.setKey (scheduleRegister (expandKey nk nr s.din)) (BitVec.ofNat 8 s.din.length) (BitVec.ofNat 8 nk)
      (BitVec.ofNat 8 nr))

/-- `KWREAD a` (R124) -/
def execKwread (a : Byte) (s : State) : Result :=
  if keyReady s = false then raiseError .notReady s
  else if wordIndexOk s a = false then raiseError .operandRange s
  else complete (s.setDout (wordBytes (wordAt s.w a.toNat)))

/-- `RKREAD a` (R125) -/
def execRkread (a : Byte) (s : State) : Result :=
  if keyReady s = false then raiseError .notReady s
  else if roundIndexOk s a = false then raiseError .operandRange s
  else complete (s.setDout (blockBytes (roundKey s.w a.toNat)))

end Sys2Proof.Machine
end

