-- ==== Sys2Proof/Machine/RoundTransforms.lean ====
section
/-! DEFINITION. The four stages and their inverses, the rounds, and the thirteen commands that work on `STATE`
(43_round_transforms.md). A block is its four columns, so a bytewise or columnwise stage acts on each column. -/

namespace Sys2Proof.Machine

/-- `SubBytes` (R135) -/
def subBytes (s : Block) : Block := ⟨subWord s.c0, subWord s.c1, subWord s.c2, subWord s.c3⟩

/-- `ShiftRows`: row `r` is rotated left by `r` positions, so column `c` takes its row `r` from column `c + r` (R136). -/
def shiftRows (s : Block) : Block :=
  ⟨⟨s.c0.b0, s.c1.b1, s.c2.b2, s.c3.b3⟩,
   ⟨s.c1.b0, s.c2.b1, s.c3.b2, s.c0.b3⟩,
   ⟨s.c2.b0, s.c3.b1, s.c0.b2, s.c1.b3⟩,
   ⟨s.c3.b0, s.c0.b1, s.c1.b2, s.c2.b3⟩⟩

/-- One column of `MixColumns`: the circulant matrix with first row `2 3 1 1` (R137). -/
def mixColumn (a : Word) : Word :=
  ⟨mul2 a.b0 ^^^ mul3 a.b1 ^^^ a.b2 ^^^ a.b3,
   a.b0 ^^^ mul2 a.b1 ^^^ mul3 a.b2 ^^^ a.b3,
   a.b0 ^^^ a.b1 ^^^ mul2 a.b2 ^^^ mul3 a.b3,
   mul3 a.b0 ^^^ a.b1 ^^^ a.b2 ^^^ mul2 a.b3⟩

/-- `MixColumns` (R137) -/
def mixColumns (s : Block) : Block := ⟨mixColumn s.c0, mixColumn s.c1, mixColumn s.c2, mixColumn s.c3⟩

/-- `AddRoundKey` (R138) -/
def addRoundKey (s k : Block) : Block := s.xor k

/-- `InvSubBytes` on one column (R139). -/
def invSubWord (x : Word) : Word := ⟨invSboxTable x.b0, invSboxTable x.b1, invSboxTable x.b2, invSboxTable x.b3⟩

/-- `InvSubBytes` (R139) -/
def invSubBytes (s : Block) : Block := ⟨invSubWord s.c0, invSubWord s.c1, invSubWord s.c2, invSubWord s.c3⟩

/-- `InvShiftRows`: row `r` is rotated right by `r` positions, so column `c` takes its row `r` from column `c - r`
(R140). -/
def invShiftRows (s : Block) : Block :=
  ⟨⟨s.c0.b0, s.c3.b1, s.c2.b2, s.c1.b3⟩,
   ⟨s.c1.b0, s.c0.b1, s.c3.b2, s.c2.b3⟩,
   ⟨s.c2.b0, s.c1.b1, s.c0.b2, s.c3.b3⟩,
   ⟨s.c3.b0, s.c2.b1, s.c1.b2, s.c0.b3⟩⟩

/-- One column of `InvMixColumns`: the circulant matrix with first row `14 11 13 9` (R141). -/
def invMixColumn (a : Word) : Word :=
  ⟨mul14 a.b0 ^^^ mul11 a.b1 ^^^ mul13 a.b2 ^^^ mul9 a.b3,
   mul9 a.b0 ^^^ mul14 a.b1 ^^^ mul11 a.b2 ^^^ mul13 a.b3,
   mul13 a.b0 ^^^ mul9 a.b1 ^^^ mul14 a.b2 ^^^ mul11 a.b3,
   mul11 a.b0 ^^^ mul13 a.b1 ^^^ mul9 a.b2 ^^^ mul14 a.b3⟩

/-- `InvMixColumns` (R141) -/
def invMixColumns (s : Block) : Block := ⟨invMixColumn s.c0, invMixColumn s.c1, invMixColumn s.c2, invMixColumn s.c3⟩

/-- `FRound`: SubBytes, ShiftRows, MixColumns, AddRoundKey, in that order (R142). -/
def fRound (s k : Block) : Block := addRoundKey (mixColumns (shiftRows (subBytes s))) k

/-- `FFinal`: the forward round without MixColumns (R143). -/
def fFinal (s k : Block) : Block := addRoundKey (shiftRows (subBytes s)) k

/-- `IRound`: AddRoundKey, InvMixColumns, InvShiftRows, InvSubBytes, in that order (R144). -/
def iRound (s k : Block) : Block := invSubBytes (invShiftRows (invMixColumns (addRoundKey s k)))

/-- `IFinal`: the inverse round without InvMixColumns (R145). -/
def iFinal (s k : Block) : Block := invSubBytes (invShiftRows (addRoundKey s k))

/-- `STLOAD` (R146) -/
def execStload (s : State) : Result :=
  match dinBlock s with
  | none => raiseError .invalidBlockLength s
  | some x => complete (s.setState x)

/-- `STREAD` (R147) -/
def execStread (s : State) : Result := complete (s.setDout (blockBytes s.state))

/-- `SUBBYTES` (R148) -/
def execSubbytes (s : State) : Result := complete (s.setState (subBytes s.state))

/-- `SHIFTROWS` (R149) -/
def execShiftrows (s : State) : Result := complete (s.setState (shiftRows s.state))

/-- `MIXCOLS` (R150) -/
def execMixcols (s : State) : Result := complete (s.setState (mixColumns s.state))

/-- `ADDRK a` (R151) -/
def execAddrk (a : Byte) (s : State) : Result := transformWithRoundKey s a addRoundKey

/-- `ISUBBYTES` (R152) -/
def execIsubbytes (s : State) : Result := complete (s.setState (invSubBytes s.state))

/-- `ISHIFTROWS` (R153) -/
def execIshiftrows (s : State) : Result := complete (s.setState (invShiftRows s.state))

/-- `IMIXCOLS` (R154) -/
def execImixcols (s : State) : Result := complete (s.setState (invMixColumns s.state))

/-- `FROUND a` (R155) -/
def execFround (a : Byte) (s : State) : Result := transformWithRoundKey s a fRound

/-- `FFINAL a` (R156) -/
def execFfinal (a : Byte) (s : State) : Result := transformWithRoundKey s a fFinal

/-- `IROUND a` (R157) -/
def execIround (a : Byte) (s : State) : Result := transformWithRoundKey s a iRound

/-- `IFINAL a` (R158) -/
def execIfinal (a : Byte) (s : State) : Result := transformWithRoundKey s a iFinal

end Sys2Proof.Machine
end

