-- ==== Sys2Proof/Machine/CipherEngine.lean ====
section
/-! DEFINITION. The cipher engine: `Encrypt`, `Decrypt`, `PartialEncrypt`, and the commands `ENCB`, `DECB`, `PENCB`
(44_cipher_engine.md). The block functions depend on the key only through `W` and `NR` (R172). -/

namespace Sys2Proof.Machine

/-- Rounds `1 .. n` of an encryption, each a full round, round keys ascending (R165). -/
def forwardRounds (w : Vector Word 60) : Nat → Block → Block
  | 0, s => s
  | n + 1, s => fRound (forwardRounds w n s) (roundKey w (n + 1))

/-- Inverse rounds `n .. 1`, round keys descending (R166). -/
def inverseRounds (w : Vector Word 60) : Nat → Block → Block
  | 0, s => s
  | n + 1, s => inverseRounds w n (iRound s (roundKey w (n + 1)))

/-- `Encrypt` (R165) -/
def encrypt (w : Vector Word 60) (nr : Nat) (x : Block) : Block :=
  fFinal (forwardRounds w (nr - 1) (addRoundKey x (roundKey w 0))) (roundKey w nr)

/-- `Decrypt`, the reversal of `Encrypt` step by step, with the same round keys (R166). -/
def decrypt (w : Vector Word 60) (nr : Nat) (y : Block) : Block :=
  addRoundKey (inverseRounds w (nr - 1) (iFinal y (roundKey w nr))) (roundKey w 0)

/-- `PartialEncrypt`: the initial AddRoundKey and `n` full rounds; the full encryption where `n ≥ Nr` (R167). -/
def partialEncrypt (w : Vector Word 60) (nr n : Nat) (x : Block) : Block :=
  if nr ≤ n then encrypt w nr x else forwardRounds w n (addRoundKey x (roundKey w 0))

/-- `ENCB` (R169) -/
def execEncb (s : State) : Result := runEngine s (encrypt s.w s.nr.toNat)

/-- `DECB` (R170) -/
def execDecb (s : State) : Result := runEngine s (decrypt s.w s.nr.toNat)

/-- `PENCB a` (R171) -/
def execPencb (a : Byte) (s : State) : Result := runEngine s (partialEncrypt s.w s.nr.toNat a.toNat)

end Sys2Proof.Machine
end

