-- ==== Sys2Proof/Machine/Padding.lean ====
section
/-! DEFINITION. The padding controller: `pad`, `unpad`, and the commands `PAD`, `UNPAD` (45_padding.md). -/

namespace Sys2Proof.Machine

/-- How many bytes `pad` appends to a sequence of `len` bytes: from 1 to 16 (R180). -/
def padCount (len : Nat) : Nat := 16 - len % 16

/-- `pad`: append `n` bytes, each of value `n` (R180). -/
def padBytes (x : List Byte) : List Byte := x ++ List.replicate (padCount x.length) (BitVec.ofNat 8 (padCount x.length))

/-- `unpad`: strip as many bytes as the last byte says; `none` where that fails: no last byte, a count outside 1 .. 16,
or a count above the length. Only the last byte is examined (R181, R185). -/
def unpadBytes (y : List Byte) : Option (List Byte) :=
  match y.getLast? with
  | none => none
  | some n =>
    if n.toNat < 1 ∨ 16 < n.toNat ∨ y.length < n.toNat then none
    else some (y.take (y.length - n.toNat))

/-- `PAD` (R182) -/
def execPad (s : State) : Result := complete (s.setDout (padBytes s.din))

/-- `UNPAD` (R183) -/
def execUnpad (s : State) : Result :=
  match unpadBytes s.din with
  | none => raiseError .paddingError s
  | some r => complete (s.setDout r)

end Sys2Proof.Machine
end

