-- ==== Sys2Proof/Machine/Modes.lean ====
section
/-! DEFINITION. The mode sequencer: the per-block steps of ECB, CBC, CFB and OFB, the chain over a message, and the
commands `MINIT`, `MENC`, `MDEC`, `IVREAD` (46_modes.md). -/

namespace Sys2Proof.Machine

/-- What one block step yields: the output block, the new feedback value, and the output of its one engine run. -/
structure BlockStep where
  out : Block
  feedback : Block
  engine : Block
deriving DecidableEq, Repr

/-- What a chain yields: the output blocks, the last feedback value, and the output of the last engine run. -/
structure ChainRun where
  blocks : List Block
  feedback : Block
  engine : Block
deriving DecidableEq, Repr

/-- `StepEnc(m, f, p)`, with `E` the engine's encryption (R192-R195). -/
def stepEnc (E : Block → Block) : Mode → Block → Block → BlockStep
  | .ecb, f, p => ⟨E p, f, E p⟩
  | .cbc, f, p => ⟨E (p.xor f), E (p.xor f), E (p.xor f)⟩
  | .cfb, f, p => ⟨p.xor (E f), p.xor (E f), E f⟩
  | .ofb, f, p => ⟨p.xor (E f), E f, E f⟩

/-- `StepDec(m, f, c)`, with `E` and `D` the engine's two directions; `D` occurs only in ECB and CBC (R196-R199, R204). -/
def stepDec (E D : Block → Block) : Mode → Block → Block → BlockStep
  | .ecb, f, c => ⟨D c, f, D c⟩
  | .cbc, f, c => ⟨(D c).xor f, c, D c⟩
  | .cfb, f, c => ⟨c.xor (E f), c, E f⟩
  | .ofb, f, c => ⟨c.xor (E f), E f, E f⟩

/-- A block step taken over the blocks of a message in order, starting from feedback `f`; `e` is the engine output
before the first block, used by no command that completes (R200, R201; DESIGN CHOICE, log entry 9). -/
def chainBlocks (step : Block → Block → BlockStep) : Block → Block → List Block → ChainRun
  | f, e, [] => ⟨[], f, e⟩
  | f, _, p :: ps =>
    let o := step f p
    let r := chainBlocks step o.feedback o.engine ps
    ⟨o.out :: r.blocks, r.feedback, r.engine⟩

/-- The chain of `MENC` over the blocks `ps`, from `IV` (R200). -/
def encryptChain (s : State) (ps : List Block) : ChainRun :=
  chainBlocks (stepEnc (encrypt s.w s.nr.toNat) s.mode) s.iv s.state ps

/-- The chain of `MDEC` over the blocks `cs`, from `IV` (R201). -/
def decryptChain (s : State) (cs : List Block) : ChainRun :=
  chainBlocks (stepDec (encrypt s.w s.nr.toNat) (decrypt s.w s.nr.toNat) s.mode) s.iv s.state cs

/-- What a message command commits: `FB` in a feedback mode, `STATE` the output of the last engine run, and `DOUT`
(R200, R201, R202). -/
def commitMessage (s : State) (r : ChainRun) (out : List Byte) : State :=
  ((s.setFb (if s.mode = .ecb then s.fb else r.feedback)).setState r.engine).setDout out

/-- `MINIT a, b` (R191). In ECB the IV source is not examined and no bytes are drawn.
The decoder admits only `b = 0` and `b = 1` (R77 (c)); the arm for other `b` is a DESIGN CHOICE, log entry 10. -/
def execMinit (a b : Byte) (s : State) : Result :=
  match modeOfOperand a with
  | none => raiseError .unsupportedMode s
  | some .ecb => complete (s.setMode .ecb Block.zero false)
  | some mode =>
    if ivFromDin b then
      match dinBlock s with
      | none => raiseError .invalidIVLength s
      | some iv => complete (s.setMode mode iv true)
    else complete ((s.setMode mode (nextRnd s.rng) true).setRng (afterDraw s.rng))

/-- `MENC` (R200) -/
def execMenc (s : State) : Result :=
  if messageReady s = false then raiseError .notReady s
  else
    complete (commitMessage s (encryptChain s (blocksOf (padBytes s.din)))
      (bytesOfBlocks (encryptChain s (blocksOf (padBytes s.din))).blocks))

/-- `MDEC` (R201): the padding is checked after the chain, and a rejection commits nothing. -/
def execMdec (s : State) : Result :=
  if messageReady s = false then raiseError .notReady s
  else if s.din.length % 16 ≠ 0 then raiseError .invalidCiphertextLength s
  else
    match unpadBytes (bytesOfBlocks (decryptChain s (blocksOf s.din)).blocks) with
    | none => raiseError .paddingError s
    | some r => complete (commitMessage s (decryptChain s (blocksOf s.din)) r)

/-- `IVREAD` (R203) -/
def execIvread (s : State) : Result :=
  if ivReady s = false then raiseError .notReady s
  else complete (s.setDout (blockBytes s.iv))

end Sys2Proof.Machine
end

