-- ==== Sys2Proof/Machine/System.lean ====
section
/-! DEFINITION. The command `STAT` (47_system.md). -/

namespace Sys2Proof.Machine

/-- The seven status bytes, in the order of R215. -/
def statusBytes (s : State) : List Byte :=
  [flagByte s.keyValid, s.klen, s.nk, s.nr, flagByte s.modeValid, s.mode.code, flagByte s.ivValid]

/-- `STAT` (R215) -/
def execStat (s : State) : Result := complete (s.setDout (statusBytes s))

end Sys2Proof.Machine
end

