-- ==== Sys2Proof/Machine/Dispatch.lean ====
section
/-! DEFINITION. The dispatch: one arm per command of `Instr`, each a direct call of the command's meaning. -/

namespace Sys2Proof.Machine

def exec (i : Instr) (s : State) : Host.Outcome State Fault Refusal :=
  match i with
  | .stat => Sys2Proof.Machine.execStat s
  | .mul2 a => Sys2Proof.Machine.execMul2 a s
  | .gfmul a b => Sys2Proof.Machine.execGfmul a b s
  | .sbox a => Sys2Proof.Machine.execSbox a s
  | .isbox a => Sys2Proof.Machine.execIsbox a s
  | .keyload => Sys2Proof.Machine.execKeyload s
  | .kwread a => Sys2Proof.Machine.execKwread a s
  | .rkread a => Sys2Proof.Machine.execRkread a s
  | .stload => Sys2Proof.Machine.execStload s
  | .stread => Sys2Proof.Machine.execStread s
  | .subbytes => Sys2Proof.Machine.execSubbytes s
  | .shiftrows => Sys2Proof.Machine.execShiftrows s
  | .mixcols => Sys2Proof.Machine.execMixcols s
  | .addrk a => Sys2Proof.Machine.execAddrk a s
  | .isubbytes => Sys2Proof.Machine.execIsubbytes s
  | .ishiftrows => Sys2Proof.Machine.execIshiftrows s
  | .imixcols => Sys2Proof.Machine.execImixcols s
  | .fround a => Sys2Proof.Machine.execFround a s
  | .ffinal a => Sys2Proof.Machine.execFfinal a s
  | .iround a => Sys2Proof.Machine.execIround a s
  | .ifinal a => Sys2Proof.Machine.execIfinal a s
  | .encb => Sys2Proof.Machine.execEncb s
  | .decb => Sys2Proof.Machine.execDecb s
  | .pencb a => Sys2Proof.Machine.execPencb a s
  | .pad => Sys2Proof.Machine.execPad s
  | .unpad => Sys2Proof.Machine.execUnpad s
  | .minit a b => Sys2Proof.Machine.execMinit a b s
  | .menc => Sys2Proof.Machine.execMenc s
  | .mdec => Sys2Proof.Machine.execMdec s
  | .ivread => Sys2Proof.Machine.execIvread s

end Sys2Proof.Machine
end

