-- ==== Sys2Proof/Machine/HostPort.lean ====
section
/-! DEFINITION. The host's actions other than the issue of a command (00_scope.md R12, 20_memory.md R52, R53,
70_reset_and_hazards.md R250) and the test injection of the random source (30_encoding.md R79). -/

namespace Sys2Proof.Machine

/-- A byte sequence of this length fits a buffer of this capacity; with no bound every sequence fits (R8 (a)).
DESIGN CHOICE, log entry 3. -/
def fitsCapacity (bufcap : Option Nat) (len : Nat) : Bool :=
  match bufcap with
  | none => true
  | some n => decide (len ≤ n)

/-- `HostReset` (R250): every register of the core takes its reset value. The host's side, the random source and the
capacity are not state of the core (R20), and a reset draws nothing (R250). DEDUCED, log entry 11. -/
def hostReset (s : State) : Result :=
  .next { State.reset with host := s.host, rng := s.rng, bufcap := s.bufcap }

/-- `HostWriteDIN(X)`: `DIN <- X` and nothing else changes (R52); a sequence above a finite capacity is refused
(R8 (a)). -/
def hostWriteDin (x : List Byte) (s : State) : Result :=
  if fitsCapacity s.bufcap x.length then .next (s.setDin x) else .refused .bufferCapacity

/-- A host read of `RESP`: the host gets its value, the core is unchanged (R53). -/
def hostReadResp (s : State) : Result := .next (s.setHost ⟨s.host.pending, .resp s.resp :: s.host.readings⟩)

/-- A host read of `DOUT`: the host gets all of it, the core is unchanged (R53). -/
def hostReadDout (s : State) : Result := .next (s.setHost ⟨s.host.pending, .dout s.dout :: s.host.readings⟩)

/-- `RND`: the next draw will supply these bytes (R79). -/
def supplyRandom (rnd : Block) (s : State) : Result := .next (s.setRng ⟨some rnd, s.rng.draws⟩)

end Sys2Proof.Machine
end

