-- ==== Sys2Proof/Machine/Issue.lean ====
section
/-! DEFINITION. `HostIssue(cmd)` (30_encoding.md R75): decode the word, run the command; and the host actions in one
function. -/

namespace Sys2Proof.Machine

/-- A command whose output would exceed a finite capacity is refused (R8 (a)). -/
def withinCapacity (r : Result) : Result :=
  match r with
  | .next t => if fitsCapacity t.bufcap t.dout.length then .next t else .refused .bufferCapacity
  | .fault f => .fault f
  | .refused f => .refused f

/-- `HostIssue(cmd)`: a word that is no command is rejected with `IllegalCommand` in every state (R75, R77, R232). -/
def hostIssue (cmd : CmdWord) (s : State) : Result :=
  match decode cmd with
  | .error _ => raiseError .illegalCommand s
  | .ok i => withinCapacity (exec i s)

/-- The effect of one host action (R12). -/
def hostAct (action : HostAction) (s : State) : Result :=
  match action with
  | .reset => hostReset s
  | .writeDin x => hostWriteDin x s
  | .issue cmd => hostIssue cmd s
  | .readResp => hostReadResp s
  | .readDout => hostReadDout s
  | .supplyRnd rnd => supplyRandom rnd s

/-- The next pending action is taken off the host's list; with none pending the core is idle and nothing changes:
"Nothing outside the host's own actions can change the core's state" (R230).
DESIGN CHOICE, log entry 1. -/
def hostStep (s : State) : Result :=
  match s.host.pending with
  | [] => .next s
  | action :: rest => hostAct action (s.setHost ⟨rest, s.host.readings⟩)

/-- The state in which the host issues this table row's word next (R75). DESIGN CHOICE, log entries 1 and
12. -/
def issueNext (s : State) (nbits w : Nat) : State :=
  s.setHost ⟨.issue (BitVec.ofNat 32 (w % 2 ^ nbits)) :: s.host.pending, s.host.readings⟩

end Sys2Proof.Machine
end

