-- ==== Sys2Proof/Machine/Step.lean ====
section
/-! DEFINITION. One step of the machine: the host's next pending action, run to completion as one atomic step
(00_scope.md R12). There is no program counter and no fetch (10_state.md R40). -/

namespace Sys2Proof.Machine

/-- One step. -/
def step (s : State) : Host.Outcome State Fault Refusal := hostStep s

/-- `s` with the word `w` issued by the host as its next action, so that the next step runs it. -/
def State.withFetchWord (s : State) (nbits w : Nat) : State := issueNext s nbits w

end Sys2Proof.Machine
end

