-- ==== Sys2Proof/Safety.lean ====
section
/-! DEFINITION. What holds of the core in every reachable state (10_state.md R37), and the words in which the statements
speak of encodings, of the errors that apply to a command, and of a sequence of commands. -/

namespace Sys2Proof.Machine

/-! ### The invariant -/

/-- The key registers agree (R24-R27, R37): with no key loaded they are all zero; with a key loaded they are the
parameters and the schedule of a key of a supported length. -/
def State.KeyInv (s : State) : Prop :=
  (s.keyValid = false → s.klen = 0 ∧ s.nk = 0 ∧ s.nr = 0 ∧ s.w = Vector.replicate 60 Word.zero) ∧
  (s.keyValid = true → ∃ (key : List Byte) (nk nr : Nat), keyParams key.length = some (nk, nr) ∧
    s.klen = BitVec.ofNat 8 key.length ∧ s.nk = BitVec.ofNat 8 nk ∧ s.nr = BitVec.ofNat 8 nr ∧
    s.w = scheduleRegister (expandKey nk nr key))

/-- The mode registers agree (R30, R31, R37); with no IV in use, `IV` and `FB` are zero (R33, R42, R191). -/
def State.ModeInv (s : State) : Prop :=
  (s.modeValid = false → s.mode = .ecb) ∧
  (s.ivValid = true ↔ s.modeValid = true ∧ s.mode ≠ .ecb) ∧
  (s.ivValid = false → s.iv = Block.zero ∧ s.fb = Block.zero)

/-- `RESP` holds a code of R220: codes 0x0A and above are never written. -/
def State.RespInv (s : State) : Prop := s.resp.toNat ≤ 9

/-- The buffers fit the capacity, where there is one (R8 (a)). -/
def State.BufferInv (s : State) : Prop :=
  fitsCapacity s.bufcap s.din.length = true ∧ fitsCapacity s.bufcap s.dout.length = true

/-- The invariant of the machine (R37). -/
def State.Inv (s : State) : Prop := s.KeyInv ∧ s.ModeInv ∧ s.RespInv ∧ s.BufferInv

/-! ### Encodings -/

/-- `op` is the opcode of the format-Z command `i`: its word is `op` with zero fields, and a word of this `op` with a
nonzero field is no command (R71, R77 (b)). -/
def EncodedZ (op : Byte) (i : Instr) : Prop :=
  ∀ a b c : Byte, (a = 0 ∧ b = 0 ∧ c = 0 → decode (wordOfFields op a b c) = .ok i) ∧
    (¬(a = 0 ∧ b = 0 ∧ c = 0) → ∃ e, decode (wordOfFields op a b c) = .error e)

/-- `op` is the opcode of the format-A command `i`, whose operand is the field `a`; the other two fields must be zero
(R72, R77 (b)). -/
def EncodedA (op : Byte) (i : Byte → Instr) : Prop :=
  ∀ a b c : Byte, (b = 0 ∧ c = 0 → decode (wordOfFields op a b c) = .ok (i a)) ∧
    (¬(b = 0 ∧ c = 0) → ∃ e, decode (wordOfFields op a b c) = .error e)

/-- `op` is the opcode of the format-AB command `i`, whose second operand must satisfy `ok`; `c` must be zero
(R73, R77). -/
def EncodedAB (op : Byte) (i : Byte → Byte → Instr) (ok : Byte → Bool) : Prop :=
  ∀ a b c : Byte, (ok b = true ∧ c = 0 → decode (wordOfFields op a b c) = .ok (i a b)) ∧
    (¬(ok b = true ∧ c = 0) → ∃ e, decode (wordOfFields op a b c) = .error e)

/-! ### Errors -/

/-- `t` is `s` after a command rejected with the error `e`: only `RESP` differs (R13, R228). -/
def RejectedWith (e : Error) (s t : State) : Prop := t = { s with resp := e.code }

/-- The errors that a command can raise besides `IllegalCommand`, in the order in which they are tested (R226). -/
def errorsOf : Instr → List Error
  | .stat | .mul2 _ | .gfmul _ _ | .sbox _ | .isbox _ | .stread | .subbytes | .shiftrows | .mixcols | .isubbytes
  | .ishiftrows | .imixcols | .pad => []
  | .keyload => [.invalidKeyLength]
  | .kwread _ | .rkread _ | .addrk _ | .fround _ | .ffinal _ | .iround _ | .ifinal _ => [.notReady, .operandRange]
  | .stload => [.invalidBlockLength]
  | .encb | .decb | .pencb _ => [.notReady, .invalidBlockLength]
  | .unpad => [.paddingError]
  | .minit _ _ => [.unsupportedMode, .invalidIVLength]
  | .menc => [.notReady]
  | .mdec => [.notReady, .invalidCiphertextLength, .paddingError]
  | .ivread => [.notReady]

/-- The construction that a command needs has not happened (R225). -/
def needsMissing (i : Instr) (s : State) : Bool :=
  match i with
  | .kwread _ | .rkread _ | .addrk _ | .fround _ | .ffinal _ | .iround _ | .ifinal _ | .encb | .decb | .pencb _ =>
    !s.keyValid
  | .menc | .mdec => !s.keyValid || !s.modeValid
  | .ivread => !s.modeValid || !s.ivValid
  | .stat | .mul2 _ | .gfmul _ _ | .sbox _ | .isbox _ | .keyload | .stload | .stread | .subbytes | .shiftrows | .mixcols
  | .isubbytes | .ishiftrows | .imixcols | .pad | .unpad | .minit _ _ => false

/-- An index operand lies beyond the loaded schedule (R224). -/
def indexBeyond (i : Instr) (s : State) : Bool :=
  match i with
  | .kwread a => decide (4 * (s.nr.toNat + 1) ≤ a.toNat)
  | .rkread a | .addrk a | .fround a | .ffinal a | .iround a | .ifinal a => decide (s.nr.toNat < a.toNat)
  | .stat | .mul2 _ | .gfmul _ _ | .sbox _ | .isbox _ | .keyload | .stload | .stread | .subbytes | .shiftrows | .mixcols
  | .isubbytes | .ishiftrows | .imixcols | .encb | .decb | .pencb _ | .pad | .unpad | .minit _ _ | .menc | .mdec
  | .ivread => false

/-- A feedback mode is given an IV from `DIN` (R191, R231). -/
def takesIvFromDin (i : Instr) : Bool :=
  match i with
  | .minit a b => decide (1 ≤ a.toNat ∧ a.toNat ≤ 3 ∧ b = 0)
  | _ => false

/-- The mode operand is none of the four modes (R229). -/
def modeUnsupported (i : Instr) : Bool :=
  match i with
  | .minit a _ => decide (3 < a.toNat)
  | _ => false

/-- The sequence whose padding a command strips: `DIN` for `UNPAD`, the recovered message for `MDEC` (R183, R201). -/
def paddedInput (i : Instr) (s : State) : List Byte :=
  match i with
  | .mdec => bytesOfBlocks (decryptChain s (blocksOf s.din)).blocks
  | _ => s.din

/-- The condition under which an error applies to a command, as R221-R225, R227, R229, R231 say it; which errors a
command can raise at all is `errorsOf`. -/
def errorApplies (i : Instr) (s : State) : Error → Bool
  | .notReady => needsMissing i s
  | .operandRange => indexBeyond i s
  | .unsupportedMode => modeUnsupported i
  | .invalidKeyLength => decide (s.din.length ≠ 16 ∧ s.din.length ≠ 24 ∧ s.din.length ≠ 32)
  | .invalidBlockLength => decide (s.din.length ≠ 16)
  | .invalidIVLength => takesIvFromDin i && decide (s.din.length ≠ 16)
  | .invalidCiphertextLength => decide (s.din.length % 16 ≠ 0)
  | .paddingError => (unpadBytes (paddedInput i s)).isNone
  | .illegalCommand => false

/-- The first error that applies, in the order of R226. -/
def firstError (i : Instr) (s : State) : Option Error := (errorsOf i).find? (errorApplies i s)

/-! ### The access table (R38) -/

/-- `DOUT` is marked "w" (R38). -/
def writesDout : Instr → Bool
  | .stat | .mul2 _ | .gfmul _ _ | .sbox _ | .isbox _ | .kwread _ | .rkread _ | .stread | .encb | .decb | .pencb _ | .pad
  | .unpad | .menc | .mdec | .ivread => true
  | .keyload | .stload | .subbytes | .shiftrows | .mixcols | .addrk _ | .isubbytes | .ishiftrows | .imixcols | .fround _
  | .ffinal _ | .iround _ | .ifinal _ | .minit _ _ => false

/-- `STATE` is marked "w" (R38). -/
def writesState : Instr → Bool
  | .stload | .subbytes | .shiftrows | .mixcols | .addrk _ | .isubbytes | .ishiftrows | .imixcols | .fround _ | .ffinal _
  | .iround _ | .ifinal _ | .encb | .decb | .pencb _ | .menc | .mdec => true
  | .stat | .mul2 _ | .gfmul _ _ | .sbox _ | .isbox _ | .keyload | .kwread _ | .rkread _ | .stread | .pad | .unpad
  | .minit _ _ | .ivread => false

/-- `W` and `KEY_VALID`, `KLEN`, `NK`, `NR` are marked "w": by `KEYLOAD` alone (R38). -/
def writesKey (i : Instr) : Bool := decide (i = .keyload)

/-- `MODE`, `MODE_VALID`, `IV`, `IV_VALID` are marked "w": by `MINIT` alone (R38). -/
def writesMode : Instr → Bool
  | .minit _ _ => true
  | _ => false

/-- A message command. -/
def isMessageCommand (i : Instr) : Bool := decide (i = .menc ∨ i = .mdec)

/-- `FB` is marked "w": by `MINIT`, and by `MENC` and `MDEC` in a feedback mode (R38). -/
def writesFb (i : Instr) (mode : Mode) : Bool := writesMode i || (isMessageCommand i && decide (mode ≠ .ecb))

/-- The command draws bytes from the random source: `MINIT` in a feedback mode with `b = 1` (R38, R240). -/
def drawsRnd : Instr → Bool
  | .minit a b => decide (1 ≤ a.toNat ∧ a.toNat ≤ 3 ∧ b ≠ 0)
  | _ => false

/-- `DIN` is marked "r" (R38). -/
def readsDin : Instr → Bool
  | .keyload | .stload | .encb | .decb | .pencb _ | .pad | .unpad | .menc | .mdec => true
  | .minit a b => takesIvFromDin (.minit a b)
  | .stat | .mul2 _ | .gfmul _ _ | .sbox _ | .isbox _ | .kwread _ | .rkread _ | .stread | .subbytes | .shiftrows | .mixcols
  | .addrk _ | .isubbytes | .ishiftrows | .imixcols | .fround _ | .ffinal _ | .iround _ | .ifinal _ | .ivread => false

/-- `STATE` is marked "r" (R38). -/
def readsState : Instr → Bool
  | .stread | .subbytes | .shiftrows | .mixcols | .addrk _ | .isubbytes | .ishiftrows | .imixcols | .fround _ | .ffinal _
  | .iround _ | .ifinal _ => true
  | .stat | .mul2 _ | .gfmul _ _ | .sbox _ | .isbox _ | .keyload | .kwread _ | .rkread _ | .stload | .encb | .decb
  | .pencb _ | .pad | .unpad | .minit _ _ | .menc | .mdec | .ivread => false

/-- `W` is marked "r" (R38). -/
def readsSchedule : Instr → Bool
  | .kwread _ | .rkread _ | .addrk _ | .fround _ | .ffinal _ | .iround _ | .ifinal _ | .encb | .decb | .pencb _ | .menc
  | .mdec => true
  | .stat | .mul2 _ | .gfmul _ _ | .sbox _ | .isbox _ | .keyload | .stload | .stread | .subbytes | .shiftrows | .mixcols
  | .isubbytes | .ishiftrows | .imixcols | .pad | .unpad | .minit _ _ | .ivread => false

/-- `KEY_VALID`, `KLEN`, `NK`, `NR` are marked "r": by the commands that read `W`, and by `STAT` (R38). -/
def readsKeyStatus (i : Instr) : Bool := readsSchedule i || decide (i = .stat)

/-- `MODE`, `MODE_VALID` are marked "r" (R38). -/
def readsMode (i : Instr) : Bool := decide (i = .stat ∨ i = .menc ∨ i = .mdec ∨ i = .ivread)

/-- `IV` is marked "r" (R38). -/
def readsIv (i : Instr) : Bool := decide (i = .menc ∨ i = .mdec ∨ i = .ivread)

/-- Two states agree on every register that the access table marks "r" for the command, and on the random source
where the command draws from it: there the agreement is on the model's own field, whose equality gives equal draws by the
model's choice (log entry 15). `FB` and `DOUT` are marked "r" for no command (R38). -/
def AgreeOnReads (i : Instr) (s s' : State) : Prop :=
  (readsDin i = true → s.din = s'.din) ∧ (readsState i = true → s.state = s'.state) ∧
  (readsSchedule i = true → s.w = s'.w) ∧
  (readsKeyStatus i = true → s.keyValid = s'.keyValid ∧ s.klen = s'.klen ∧ s.nk = s'.nk ∧ s.nr = s'.nr) ∧
  (readsMode i = true → s.mode = s'.mode ∧ s.modeValid = s'.modeValid) ∧
  (readsIv i = true → s.iv = s'.iv) ∧ (readsMode i = true → s.ivValid = s'.ivValid) ∧
  (drawsRnd i = true → s.rng = s'.rng)

/-! ### Chains -/

/-- The values of a chain over `n` blocks: from feedback `f0`, block step `i` takes `f i` and `input i` to the output
block `out i`, the feedback `f (i + 1)` and the engine output `e i` (R200, R201). -/
def ChainValues (step : Block → Block → BlockStep) (f0 : Block) (n : Nat) (input f out e : Nat → Block) : Prop :=
  f 0 = f0 ∧ ∀ i < n, step (f i) (input i) = ⟨out i, f (i + 1), e i⟩

/-! ### Sequences of commands -/

/-- The state after a sequence of commands, each of which must succeed; `none` where one is rejected. -/
def runCommands : List Instr → State → Option State
  | [], s => some s
  | i :: is, s =>
    match exec i s with
    | .next t => if t.resp = 0x00 then runCommands is t else none
    | .fault _ => none
    | .refused _ => none

/-- The commands by which a host walks an encryption of `n` rounds by hand (R244; 95_test_vectors.md P2). -/
def handWalk (n : Nat) : List Instr :=
  [.stload, .addrk 0] ++ (List.range (n - 1)).map (fun r => Instr.fround (BitVec.ofNat 8 (r + 1))) ++
    [.ffinal (BitVec.ofNat 8 n)]

end Sys2Proof.Machine
end

