-- ==== Sys2Proof/Certificates/Slice0/Obligations.lean ====
section
/-! DEFINITION. The statements about the machine that are to be proved. Each docstring names the rules it formalises. A
result is stated as an equation `exec i s = .next { s with … }`, which says at once that the command completes, what it
writes, and that every other field of the state is as before. -/

open Sys2Proof Sys2Proof.Machine

/-! ### Reset and the host's actions -/

/-- R42: in the state after reset every register has the value that the table gives; `STREAD` returns sixteen zero bytes
and a stage command transforms the zero state. -/
def Obligations.ResetValuesAreThoseOfTheTable : Prop :=
  blockBytes State.reset.state = List.replicate 16 0x00 ∧ (∀ i < 60, wordBytes (wordAt State.reset.w i) = [0, 0, 0, 0]) ∧
  State.reset.keyValid = false ∧ State.reset.klen = 0 ∧ State.reset.nk = 0 ∧ State.reset.nr = 0 ∧
  State.reset.mode.code = 0 ∧ State.reset.modeValid = false ∧ blockBytes State.reset.iv = List.replicate 16 0x00 ∧
  State.reset.ivValid = false ∧ blockBytes State.reset.fb = List.replicate 16 0x00 ∧ State.reset.din = [] ∧
  State.reset.dout = [] ∧ State.reset.resp = 0x00 ∧
  exec .stread State.reset = .next { State.reset with dout := List.replicate 16 0x00 } ∧
  (∀ p ∈ [(Instr.subbytes, subBytes), (.shiftrows, shiftRows), (.mixcols, mixColumns), (.isubbytes, invSubBytes),
    (.ishiftrows, invShiftRows), (.imixcols, invMixColumns)],
    exec p.1 State.reset = .next { State.reset with state := p.2 Block.zero })

/-- R250: `HostReset` puts every register of the core at its reset value, from any state, and consumes no random bytes:
the random source, the capacity and the host's further actions and readings are left as they are. The same registers are
those of the initial state `State.reset`. Derived: that an unused test injection survives is the model's choice (log
entry 11), and the fields for the host and the capacity are the model's form (log entries 1 and 3). -/
def Obligations.HostResetRestoresResetState : Prop :=
  ∀ (s : State) (rest : List HostAction), s.host.pending = .reset :: rest →
    step s = .next { s with
      state := Block.zero, w := Vector.replicate 60 Word.zero, keyValid := false, klen := 0, nk := 0, nr := 0
      mode := .ecb, modeValid := false, iv := Block.zero, ivValid := false, fb := Block.zero, din := [], dout := []
      resp := 0x00, host := ⟨rest, s.host.readings⟩ } ∧
    step s = .next { State.reset with host := ⟨rest, s.host.readings⟩, rng := s.rng, bufcap := s.bufcap }

/-- Derived from R52 and R8 (a): `HostWriteDIN(X)` makes `DIN` the sequence `X` and changes nothing else, `RESP` included.
That the capacity is a field of the state and a sequence above a finite one is refused is the model's choice (log
entry 3), which is what R8 (a) asks of a model that takes the parameter. -/
def Obligations.HostWriteReplacesDinOnly : Prop :=
  ∀ (s : State) (x : List Byte) (rest : List HostAction), s.host.pending = .writeDin x :: rest →
    (fitsCapacity s.bufcap x.length = true → step s = .next { s with host := ⟨rest, s.host.readings⟩, din := x }) ∧
    (fitsCapacity s.bufcap x.length = false → step s = .refused .bufferCapacity)

/-- R53: a host read of `RESP` or of `DOUT` gives its current value, all of it, and changes no register. -/
def Obligations.HostReadsGiveValueAndChangeNothing : Prop :=
  ∀ (s : State) (rest : List HostAction),
    (s.host.pending = .readResp :: rest → step s = .next { s with host := ⟨rest, .resp s.resp :: s.host.readings⟩ }) ∧
    (s.host.pending = .readDout :: rest → step s = .next { s with host := ⟨rest, .dout s.dout :: s.host.readings⟩ })

/-- R230, derived: with no host action pending nothing changes; and the test injection of R79 changes the random source
alone. That an idle core takes a step at all is the model's choice (log entry 1). -/
def Obligations.CoreChangesOnlyByHostActions : Prop :=
  ∀ s : State, (s.host.pending = [] → step s = .next s) ∧
    (∀ (rnd : Block) (rest : List HostAction), s.host.pending = .supplyRnd rnd :: rest →
      step s = .next { s with host := ⟨rest, s.host.readings⟩, rng := ⟨some rnd, s.rng.draws⟩ })

/-! ### Encoding and issue -/

/-- A step runs the decoded command: issuing a word that decodes to `i` is `exec i` on the state without that pending
action where `bufcap` is unbounded (R75); with a finite capacity it is so exactly where the `DOUT` left behind fits, and
otherwise the step is refused (R8 (a); the model's choice, log entry 3). -/
def Obligations.IssueRunsDecodedCommand : Prop :=
  ∀ (s : State) (cmd : CmdWord) (i : Instr) (rest : List HostAction),
    s.host.pending = .issue cmd :: rest → decode cmd = .ok i →
    step s = withinCapacity (exec i { s with host := ⟨rest, s.host.readings⟩ }) ∧
    (s.bufcap = none → step s = exec i { s with host := ⟨rest, s.host.readings⟩ }) ∧
    (∀ (n : Nat) (t : State), s.bufcap = some n → exec i { s with host := ⟨rest, s.host.readings⟩ } = .next t →
      (t.dout.length ≤ n → step s = .next t) ∧ (n < t.dout.length → step s = .refused .bufferCapacity))

/-- R232: a word that matches no row of the opcode table (a reserved opcode, a nonzero reserved field, or `MINIT` with
`b > 1`) is rejected with `IllegalCommand` in every state; only `RESP` changes. -/
def Obligations.WordOutsideTheTableIsRejected : Prop :=
  ∀ (s : State) (cmd : CmdWord) (rest : List HostAction), s.host.pending = .issue cmd :: rest →
    (∀ r ∈ opcodeTable, r.matches cmd = false) →
    step s = .next { s with host := ⟨rest, s.host.readings⟩, resp := 0x08 }

/-- The decoder and the opcode table's match and mask agree on every word (R71-R73, R75-R77). -/
def Obligations.DecoderAgreesWithOpcodeTable : Prop :=
  ∀ (cmd : CmdWord) (name : String),
    (∃ i, decode cmd = .ok i ∧ mnemonicOf i = name) ↔ (∃ r ∈ opcodeTable, r.matches cmd = true ∧ r.mnemonic = name)

/-- Decoding an encoded well-formed command gives it back, with every operand at every value. -/
def Obligations.DecodeOfEncodeIsIdentity : Prop :=
  ∀ i : Instr, i.wf = true → decode (encode i) = .ok i

/-- Each word has one meaning: a word that decodes to a command is that command's encoding, and the command is
well-formed. -/
def Obligations.EncodeOfDecodeIsIdentity : Prop :=
  ∀ (cmd : CmdWord) (i : Instr), decode cmd = .ok i → encode i = cmd ∧ i.wf = true

/-- Words written out in the spec decode to the commands they stand for, one of each group (30_encoding.md R76). -/
def Obligations.SampleWordsDecode : Prop :=
  decode 0x01000000 = .ok .stat ∧ decode 0x10570000 = .ok (.mul2 0x57) ∧ decode 0x11571300 = .ok (.gfmul 0x57 0x13) ∧
  decode 0x20530000 = .ok (.sbox 0x53) ∧ decode 0x320A0000 = .ok (.rkread 10) ∧ decode 0x45010000 = .ok (.addrk 1) ∧
  decode 0x50000000 = .ok .encb ∧ decode 0x52010000 = .ok (.pencb 1) ∧ decode 0x60000000 = .ok .pad ∧
  decode 0x70030100 = .ok (.minit 3 1) ∧ decode 0x73000000 = .ok .ivread

/-! ### The GF(2^8) multiplier -/

/-- R90: `mul2` shifts left and reduces with 0x1B where the high bit was set; it is linear over exclusive-or and a
bijection on bytes; its corner cases. -/
def Obligations.MulTwoShiftsAndReduces : Prop :=
  (∀ a : Byte, mul2 a = if a.getLsbD 7 then (a <<< 1) ^^^ 0x1B else a <<< 1) ∧
  (∀ a b : Byte, mul2 (a ^^^ b) = mul2 a ^^^ mul2 b) ∧ (∀ b : Byte, ∃ a, mul2 a = b ∧ ∀ a', mul2 a' = b → a' = a) ∧
  mul2 0x00 = 0x00 ∧ mul2 0x80 = 0x1B ∧ mul2 0x7F = 0xFE ∧ mul2 0xFF = 0xE5 ∧ mul2 0x8D = 0x01

/-- R97: `gmul` is the exclusive-or of `mul2^k(a)` over the set bits `k` of `b`, and agrees with the constant
multipliers of R90-R96. -/
def Obligations.GmulSumsShiftedMultiples : Prop :=
  (∀ a b : Byte, gmul a b = (List.range 8).foldl (fun x k => if b.getLsbD k then x ^^^ mul2Pow k a else x) 0x00) ∧
  (∀ a : Byte, gmul a 1 = a ∧ gmul a 2 = mul2 a ∧ gmul a 3 = mul3 a ∧ gmul a 9 = mul9 a ∧ gmul a 11 = mul11 a ∧
    gmul a 13 = mul13 a ∧ gmul a 14 = mul14 a)

/-- The laws of R100: with exclusive-or as addition, `gmul` is the multiplication of a field. -/
def Obligations.GmulIsFieldMultiplication : Prop :=
  (∀ a b : Byte, gmul a b = gmul b a) ∧ (∀ a : Byte, gmul a 0 = 0 ∧ gmul a 1 = a) ∧
  (∀ a b c : Byte, gmul a (b ^^^ c) = gmul a b ^^^ gmul a c) ∧
  (∀ a b c : Byte, gmul (gmul a b) c = gmul a (gmul b c)) ∧
  (∀ a : Byte, a ≠ 0 → ∃ b, gmul a b = 1 ∧ ∀ b', gmul a b' = 1 → b' = b)

/-- R98, R99: `MUL2 a` and `GFMUL a, b` return one byte in `DOUT` in every state. -/
def Obligations.MultiplierCommandsReturnProduct : Prop :=
  EncodedA 0x10 .mul2 ∧ EncodedAB 0x11 .gfmul (fun _ => true) ∧
  (∀ (a : Byte) (s : State), exec (.mul2 a) s = .next { s with dout := [mul2 a], resp := 0x00 }) ∧
  (∀ (a b : Byte) (s : State), exec (.gfmul a b) s = .next { s with dout := [gmul a b], resp := 0x00 })

/-! ### The substitution tables -/

/-- R108: both tables are permutations, with the values listed, and `S` has no fixed and no opposite fixed point. -/
def Obligations.TablesArePermutations : Prop :=
  (∀ v : Byte, ∃ b, sboxTable b = v ∧ ∀ b', sboxTable b' = v → b' = b) ∧
  (∀ v : Byte, ∃ b, invSboxTable b = v ∧ ∀ b', invSboxTable b' = v → b' = b) ∧
  sboxTable 0x00 = 0x63 ∧ invSboxTable 0x63 = 0x00 ∧ sboxTable 0x52 = 0x00 ∧ invSboxTable 0x00 = 0x52 ∧
  (∀ b : Byte, sboxTable b ≠ b ∧ sboxTable b ≠ b ^^^ 0xFF)

/-- R106: every entry of `S` is the affine image of the multiplicative inverse of its index (0 for index 0). -/
def Obligations.SboxIsInverseThenAffine : Prop :=
  ∀ b v : Byte, (b = 0 → v = 0) → (b ≠ 0 → gmul b v = 0x01) → ∀ i < 8,
    (sboxTable b).getLsbD i =
      (v.getLsbD i ^^ v.getLsbD ((i + 4) % 8) ^^ v.getLsbD ((i + 5) % 8) ^^ v.getLsbD ((i + 6) % 8) ^^
        v.getLsbD ((i + 7) % 8) ^^ (0x63 : Byte).getLsbD i)

/-- R109, R110: `SBOX a` and `ISBOX a` return the table entry in every state, and `ISBOX` undoes `SBOX`. -/
def Obligations.TableCommandsReturnEntry : Prop :=
  EncodedA 0x20 .sbox ∧ EncodedA 0x21 .isbox ∧
  (∀ (a : Byte) (s : State), exec (.sbox a) s = .next { s with dout := [sboxTable a], resp := 0x00 }) ∧
  (∀ (a : Byte) (s : State), exec (.isbox a) s = .next { s with dout := [invSboxTable a], resp := 0x00 }) ∧
  (∀ a : Byte, invSboxTable (sboxTable a) = a ∧ sboxTable (invSboxTable a) = a)

/-! ### The key schedule -/

/-- R115: the round constants start at 1 and each is twice the one before. -/
def Obligations.RoundConstantsArePowersOfTwo : Prop :=
  rconTable.length = 14 ∧ rcon 1 = 0x01 ∧ (∀ j, 1 ≤ j → j < 14 → rcon (j + 1) = mul2 (rcon j))

/-- R120, R123: `KEYLOAD` on a key of 16, 24 or 32 bytes writes the key words, then the words of the recurrence, then
zero words, and the key parameters, and nothing else but `RESP`; on any other length it is rejected. The word functions
are written out: `RotWord`, `SubWord`, the round constant on the first byte, and the branch of 32-byte keys alone. -/
def Obligations.KeyloadExpandsTheKey : Prop :=
  EncodedZ 0x30 .keyload ∧
  (∀ s : State, s.din.length ≠ 16 → s.din.length ≠ 24 → s.din.length ≠ 32 →
    exec .keyload s = .next { s with resp := 0x01 }) ∧
  (∀ (s : State) (nk nr : Nat),
    (s.din.length, nk, nr) = (16, 4, 10) ∨ (s.din.length, nk, nr) = (24, 6, 12) ∨ (s.din.length, nk, nr) = (32, 8, 14) →
    ∃ w : Vector Word 60,
      exec .keyload s = .next { s with
        w := w, klen := BitVec.ofNat 8 s.din.length, nk := BitVec.ofNat 8 nk, nr := BitVec.ofNat 8 nr,
        keyValid := true, resp := 0x00 } ∧
      (∀ i < nk, ∀ j < 4, (wordBytes (wordAt w i)).getD j 0 = s.din.getD (4 * i + j) 0) ∧
      (∀ i, nk ≤ i → i < 4 * (nr + 1) → ∀ t : Word, t = wordAt w (i - 1) →
        wordAt w i = Word.xor
          (if i % nk = 0 then
            ⟨sboxTable t.b1 ^^^ rcon (i / nk), sboxTable t.b2, sboxTable t.b3, sboxTable t.b0⟩
          else if nk = 8 ∧ i % nk = 4 then ⟨sboxTable t.b0, sboxTable t.b1, sboxTable t.b2, sboxTable t.b3⟩
          else t)
          (wordAt w (i - nk))) ∧
      (∀ i, 4 * (nr + 1) ≤ i → i < 60 → wordAt w i = ⟨0, 0, 0, 0⟩))

/-- R124, R125: `KWREAD` and `RKREAD` return the indexed word or round key, or are rejected, the missing key first. -/
def Obligations.KeyReadsReturnTheSchedule : Prop :=
  EncodedA 0x31 .kwread ∧ EncodedA 0x32 .rkread ∧ ∀ (a : Byte) (s : State),
    (s.keyValid = false → exec (.kwread a) s = .next { s with resp := 0x07 } ∧
      exec (.rkread a) s = .next { s with resp := 0x07 }) ∧
    (s.keyValid = true → 4 * (s.nr.toNat + 1) ≤ a.toNat → exec (.kwread a) s = .next { s with resp := 0x09 }) ∧
    (s.keyValid = true → a.toNat < 4 * (s.nr.toNat + 1) →
      exec (.kwread a) s = .next { s with dout := wordBytes (wordAt s.w a.toNat), resp := 0x00 }) ∧
    (s.keyValid = true → s.nr.toNat < a.toNat → exec (.rkread a) s = .next { s with resp := 0x09 }) ∧
    (s.keyValid = true → a.toNat ≤ s.nr.toNat →
      exec (.rkread a) s = .next { s with dout := blockBytes (roundKey s.w a.toNat), resp := 0x00 })

/-- R56, R121: byte `4c + j` of round key `r` is byte `j` of word `4r + c`; so `RKREAD r` returns what the four
`KWREAD`s of its words return, one after the other. -/
def Obligations.RoundKeyReadIsFourWordReads : Prop :=
  (∀ (w : Vector Word 60) (r c j : Nat), c < 4 → j < 4 →
    byteAt (roundKey w r) (4 * c + j) = (wordBytes (wordAt w (4 * r + c))).getD j 0) ∧
  (∀ (s : State) (a : Byte), s.keyValid = true → s.nr.toNat ≤ 14 → a.toNat ≤ s.nr.toNat →
    ∃ t t0 t1 t2 t3 : State, exec (.rkread a) s = .next t ∧ exec (.kwread (4 * a)) s = .next t0 ∧
      exec (.kwread (4 * a + 1)) s = .next t1 ∧ exec (.kwread (4 * a + 2)) s = .next t2 ∧
      exec (.kwread (4 * a + 3)) s = .next t3 ∧ t.dout = t0.dout ++ t1.dout ++ t2.dout ++ t3.dout ∧
      t.dout.length = 16 ∧ t.resp = 0x00)

/-! ### The stages and the rounds -/

/-- R135, R139: `SubBytes` and `InvSubBytes` look up each of the sixteen bytes, and each undoes the other. -/
def Obligations.SubBytesLooksUpEveryByte : Prop :=
  ∀ s : Block, (∀ i < 16, byteAt (subBytes s) i = sboxTable (byteAt s i)) ∧
    (∀ i < 16, byteAt (invSubBytes s) i = invSboxTable (byteAt s i)) ∧
    invSubBytes (subBytes s) = s ∧ subBytes (invSubBytes s) = s

/-- R136, R140: `ShiftRows` and `InvShiftRows` as the index formulas of the rules (the remainder is non-negative). -/
def Obligations.ShiftRowsRotatesEveryRow : Prop :=
  ∀ s : Block, (∀ i < 16, byteAt (shiftRows s) i = byteAt s (i % 4 + 4 * ((i / 4 + i % 4) % 4))) ∧
    (∀ i < 16, byteAt (invShiftRows s) i = byteAt s (i % 4 + 4 * (((i / 4 : Int) - (i % 4 : Int)) % 4).toNat)) ∧
    invShiftRows (shiftRows s) = s

/-- R137: `MixColumns` multiplies each column by the circulant matrix with first row `2 3 1 1`. -/
def Obligations.MixColumnsMultipliesEveryColumn : Prop :=
  ∀ (s : Block) (c : Nat), c < 4 → ∀ a0 a1 a2 a3 : Byte,
    a0 = byteAt s (4 * c) → a1 = byteAt s (4 * c + 1) → a2 = byteAt s (4 * c + 2) → a3 = byteAt s (4 * c + 3) →
    byteAt (mixColumns s) (4 * c) = mul2 a0 ^^^ mul3 a1 ^^^ a2 ^^^ a3 ∧
    byteAt (mixColumns s) (4 * c + 1) = a0 ^^^ mul2 a1 ^^^ mul3 a2 ^^^ a3 ∧
    byteAt (mixColumns s) (4 * c + 2) = a0 ^^^ a1 ^^^ mul2 a2 ^^^ mul3 a3 ∧
    byteAt (mixColumns s) (4 * c + 3) = mul3 a0 ^^^ a1 ^^^ a2 ^^^ mul2 a3

/-- The matrix of R141, and that `InvMixColumns` undoes `MixColumns` on every state, and the other way round. -/
def Obligations.InvMixColumnsUndoesMixColumns : Prop :=
  (∀ (s : Block) (c : Nat), c < 4 → ∀ a0 a1 a2 a3 : Byte,
    a0 = byteAt s (4 * c) → a1 = byteAt s (4 * c + 1) → a2 = byteAt s (4 * c + 2) → a3 = byteAt s (4 * c + 3) →
    byteAt (invMixColumns s) (4 * c) = mul14 a0 ^^^ mul11 a1 ^^^ mul13 a2 ^^^ mul9 a3 ∧
    byteAt (invMixColumns s) (4 * c + 1) = mul9 a0 ^^^ mul14 a1 ^^^ mul11 a2 ^^^ mul13 a3 ∧
    byteAt (invMixColumns s) (4 * c + 2) = mul13 a0 ^^^ mul9 a1 ^^^ mul14 a2 ^^^ mul11 a3 ∧
    byteAt (invMixColumns s) (4 * c + 3) = mul11 a0 ^^^ mul13 a1 ^^^ mul9 a2 ^^^ mul14 a3) ∧
  (∀ s : Block, invMixColumns (mixColumns s) = s ∧ mixColumns (invMixColumns s) = s)

/-- R138, R142-R145: `AddRoundKey` is bytewise exclusive-or and its own inverse; the rounds are the stages in the order
of the rules, and each inverse round undoes its forward round. -/
def Obligations.RoundsComposeAndInvert : Prop :=
  ∀ s k : Block, (∀ i < 16, byteAt (addRoundKey s k) i = byteAt s i ^^^ byteAt k i) ∧
    addRoundKey (addRoundKey s k) k = s ∧
    fRound s k = addRoundKey (mixColumns (shiftRows (subBytes s))) k ∧
    fFinal s k = addRoundKey (shiftRows (subBytes s)) k ∧
    iRound s k = invSubBytes (invShiftRows (invMixColumns (addRoundKey s k))) ∧
    iFinal s k = invSubBytes (invShiftRows (addRoundKey s k)) ∧
    iRound (fRound s k) k = s ∧ iFinal (fFinal s k) k = s

/-- R146, R147: `STLOAD` loads the sixteen bytes of `DIN` in index order, or is rejected on any other length; `STREAD`
returns the sixteen bytes of `STATE` in index order. -/
def Obligations.StateLoadAndReadKeepByteOrder : Prop :=
  EncodedZ 0x40 .stload ∧ EncodedZ 0x41 .stread ∧
  (∀ s : State, s.din.length ≠ 16 → exec .stload s = .next { s with resp := 0x02 }) ∧
  (∀ s : State, s.din.length = 16 → ∃ x : Block,
    exec .stload s = .next { s with state := x, resp := 0x00 } ∧ ∀ i < 16, byteAt x i = s.din.getD i 0) ∧
  (∀ s : State, ∃ v : List Byte, exec .stread s = .next { s with dout := v, resp := 0x00 } ∧ v.length = 16 ∧
    ∀ i < 16, v.getD i 0 = byteAt s.state i)

/-- R148-R150, R152-R154: the six stage commands transform `STATE` in place, in every state. -/
def Obligations.StageCommandsTransformState : Prop :=
  EncodedZ 0x42 .subbytes ∧ EncodedZ 0x43 .shiftrows ∧ EncodedZ 0x44 .mixcols ∧ EncodedZ 0x46 .isubbytes ∧
  EncodedZ 0x47 .ishiftrows ∧ EncodedZ 0x48 .imixcols ∧ ∀ s : State,
    exec .subbytes s = .next { s with state := subBytes s.state, resp := 0x00 } ∧
    exec .shiftrows s = .next { s with state := shiftRows s.state, resp := 0x00 } ∧
    exec .mixcols s = .next { s with state := mixColumns s.state, resp := 0x00 } ∧
    exec .isubbytes s = .next { s with state := invSubBytes s.state, resp := 0x00 } ∧
    exec .ishiftrows s = .next { s with state := invShiftRows s.state, resp := 0x00 } ∧
    exec .imixcols s = .next { s with state := invMixColumns s.state, resp := 0x00 }

/-- R151, R155-R158: the five commands with a round-key index transform `STATE` with that round key, whichever round it
is, or are rejected, the missing key first. -/
def Obligations.RoundKeyCommandsTransformState : Prop :=
  EncodedA 0x45 .addrk ∧ EncodedA 0x49 .fround ∧ EncodedA 0x4A .ffinal ∧ EncodedA 0x4B .iround ∧
  EncodedA 0x4C .ifinal ∧ ∀ (a : Byte) (s : State),
    (s.keyValid = false → ∀ i ∈ [Instr.addrk a, .fround a, .ffinal a, .iround a, .ifinal a],
      exec i s = .next { s with resp := 0x07 }) ∧
    (s.keyValid = true → s.nr.toNat < a.toNat → ∀ i ∈ [Instr.addrk a, .fround a, .ffinal a, .iround a, .ifinal a],
      exec i s = .next { s with resp := 0x09 }) ∧
    (s.keyValid = true → a.toNat ≤ s.nr.toNat →
      exec (.addrk a) s = .next { s with state := addRoundKey s.state (roundKey s.w a.toNat), resp := 0x00 } ∧
      exec (.fround a) s = .next { s with state := fRound s.state (roundKey s.w a.toNat), resp := 0x00 } ∧
      exec (.ffinal a) s = .next { s with state := fFinal s.state (roundKey s.w a.toNat), resp := 0x00 } ∧
      exec (.iround a) s = .next { s with state := iRound s.state (roundKey s.w a.toNat), resp := 0x00 } ∧
      exec (.ifinal a) s = .next { s with state := iFinal s.state (roundKey s.w a.toNat), resp := 0x00 })

/-- The corner cases of R149, R151, R157, R158: a command and then its inverse restore `STATE`, `ADDRK` twice and
`SHIFTROWS` four times too; nothing else has changed but `RESP`. -/
def Obligations.InverseCommandsRestoreState : Prop :=
  (∀ s : State, runCommands [.subbytes, .isubbytes] s = some { s with resp := 0x00 } ∧
    runCommands [.shiftrows, .ishiftrows] s = some { s with resp := 0x00 } ∧
    runCommands [.mixcols, .imixcols] s = some { s with resp := 0x00 } ∧
    runCommands [.shiftrows, .shiftrows, .shiftrows, .shiftrows] s = some { s with resp := 0x00 }) ∧
  (∀ (a : Byte) (s : State), s.keyValid = true → a.toNat ≤ s.nr.toNat →
    runCommands [.addrk a, .addrk a] s = some { s with resp := 0x00 } ∧
    runCommands [.fround a, .iround a] s = some { s with resp := 0x00 } ∧
    runCommands [.ffinal a, .ifinal a] s = some { s with resp := 0x00 })

/-! ### The cipher engine -/

/-- R165: `Encrypt` is the initial AddRoundKey, the full rounds `1 .. Nr-1` with ascending round keys, and the final
round with round key `Nr`: whatever sequence of states satisfies that recurrence ends in `Encrypt(x)`. -/
def Obligations.EncryptIsTheRoundSequence : Prop :=
  ∀ (w : Vector Word 60) (nr : Nat) (x : Block) (st : Nat → Block), 1 ≤ nr →
    st 0 = addRoundKey x (roundKey w 0) → (∀ r, 1 ≤ r → r ≤ nr - 1 → st r = fRound (st (r - 1)) (roundKey w r)) →
    encrypt w nr x = fFinal (st (nr - 1)) (roundKey w nr)

/-- R166: `Decrypt` starts with round key `Nr` and descends to round key 0; and it inverts `Encrypt`, both ways, for
every schedule, every round count and every block. -/
def Obligations.DecryptInvertsEncrypt : Prop :=
  (∀ (w : Vector Word 60) (nr : Nat) (y : Block) (st : Nat → Block), 1 ≤ nr →
    st (nr - 1) = iFinal y (roundKey w nr) → (∀ r, 1 ≤ r → r ≤ nr - 1 → st (r - 1) = iRound (st r) (roundKey w r)) →
    decrypt w nr y = addRoundKey (st 0) (roundKey w 0)) ∧
  (∀ (w : Vector Word 60) (nr : Nat) (x : Block), decrypt w nr (encrypt w nr x) = x ∧ encrypt w nr (decrypt w nr x) = x)

/-- R167: `PartialEncrypt(x, n)` is the full encryption for `n ≥ Nr`, and otherwise the initial AddRoundKey and `n`
full rounds, so that the final round of `Encrypt` starts from `PartialEncrypt(x, Nr - 1)`. -/
def Obligations.PartialEncryptIsAPrefix : Prop :=
  ∀ (w : Vector Word 60) (nr : Nat) (x : Block),
    (∀ n, nr ≤ n → partialEncrypt w nr n x = encrypt w nr x) ∧
    (0 < nr → partialEncrypt w nr 0 x = addRoundKey x (roundKey w 0)) ∧
    (∀ n, n + 1 < nr → partialEncrypt w nr (n + 1) x = fRound (partialEncrypt w nr n x) (roundKey w (n + 1))) ∧
    (0 < nr → encrypt w nr x = fFinal (partialEncrypt w nr (nr - 1) x) (roundKey w nr))

/-- R168-R171: `ENCB`, `DECB` and `PENCB` write the engine's output for the block in `DIN` to `DOUT` and to `STATE`, or
are rejected, the missing key first. -/
def Obligations.BlockCommandsReturnEngineOutput : Prop :=
  EncodedZ 0x50 .encb ∧ EncodedZ 0x51 .decb ∧ EncodedA 0x52 .pencb ∧ ∀ (a : Byte) (s : State),
    (s.keyValid = false → ∀ i ∈ [Instr.encb, .decb, .pencb a], exec i s = .next { s with resp := 0x07 }) ∧
    (s.keyValid = true → s.din.length ≠ 16 → ∀ i ∈ [Instr.encb, .decb, .pencb a],
      exec i s = .next { s with resp := 0x02 }) ∧
    (s.keyValid = true → s.din.length = 16 → ∀ x y z p : Block, (∀ i < 16, byteAt x i = s.din.getD i 0) →
      y = encrypt s.w s.nr.toNat x → z = decrypt s.w s.nr.toNat x → p = partialEncrypt s.w s.nr.toNat a.toNat x →
      exec .encb s = .next { s with state := y, dout := blockBytes y, resp := 0x00 } ∧
      exec .decb s = .next { s with state := z, dout := blockBytes z, resp := 0x00 } ∧
      exec (.pencb a) s = .next { s with state := p, dout := blockBytes p, resp := 0x00 })

/-- The block round trip of R166 through the commands: `DECB` on the output of `ENCB` returns the block that was
encrypted, and the other way round, under any loaded key. -/
def Obligations.BlockRoundTripThroughCommands : Prop :=
  ∀ s : State, s.keyValid = true → s.din.length = 16 →
    (∃ t u : State, exec .encb s = .next t ∧ exec .decb { t with din := t.dout } = .next u ∧ u.resp = 0x00 ∧
      u.dout = s.din) ∧
    (∃ t u : State, exec .decb s = .next t ∧ exec .encb { t with din := t.dout } = .next u ∧ u.resp = 0x00 ∧
      u.dout = s.din)

/-- R244, program P2: the host that walks an encryption by hand (`STLOAD`, `ADDRK 0`, `FROUND 1 .. NR-1`,
`FFINAL NR`) has the same `STATE` in the end as `ENCB`; every command of the walk succeeds. -/
def Obligations.HandWalkEqualsEncb : Prop :=
  ∀ s : State, s.keyValid = true → s.din.length = 16 → 1 ≤ s.nr.toNat →
    ∃ t u : State, runCommands (handWalk s.nr.toNat) s = some t ∧ exec .encb s = .next u ∧ u.resp = 0x00 ∧
      t.state = u.state ∧ blockBytes t.state = u.dout ∧ t.dout = s.dout

/-! ### The padding controller -/

/-- R180, R182: `PAD` returns `DIN` with `n` bytes of value `n` appended, `n = 16 - len mod 16`, so that the length is
the least multiple of 16 above that of `DIN`. -/
def Obligations.PadAppendsCountBytes : Prop :=
  EncodedZ 0x60 .pad ∧ ∀ s : State, ∃ n : Nat, n = 16 - s.din.length % 16 ∧ 1 ≤ n ∧ n ≤ 16 ∧
    exec .pad s = .next { s with dout := s.din ++ List.replicate n (BitVec.ofNat 8 n), resp := 0x00 } ∧
    (s.din.length + n) % 16 = 0 ∧ (∀ m, s.din.length < m → m % 16 = 0 → s.din.length + n ≤ m)

/-- R181, R183: `UNPAD` reads the last byte of `DIN` alone: it is rejected on an empty `DIN`, on a count outside 1 .. 16
and on a count above the length, and otherwise returns `DIN` without that many bytes. -/
def Obligations.UnpadReadsLastByteOnly : Prop :=
  EncodedZ 0x61 .unpad ∧ (∀ s : State, s.din = [] → exec .unpad s = .next { s with resp := 0x04 }) ∧
  ∀ (s : State) (x : List Byte) (n : Byte), s.din = x ++ [n] →
    (n.toNat < 1 ∨ 16 < n.toNat ∨ s.din.length < n.toNat → exec .unpad s = .next { s with resp := 0x04 }) ∧
    (1 ≤ n.toNat → n.toNat ≤ 16 → n.toNat ≤ s.din.length →
      exec .unpad s = .next { s with dout := s.din.take (s.din.length - n.toNat), resp := 0x00 })

/-- R184: `unpad` undoes `pad` on every sequence; the converse does not hold. -/
def Obligations.UnpadUndoesPad : Prop :=
  (∀ x : List Byte, unpadBytes (padBytes x) = some x) ∧
  (∃ y r : List Byte, unpadBytes y = some r ∧ padBytes r ≠ y)

/-! ### The mode sequencer -/

/-- From R191: `MINIT` rejects a mode number above 3; in ECB it ignores the IV source and clears `IV` and `FB`; in a feedback
mode it takes the IV from `DIN`, rejecting any length but 16, or draws it from the random source. It replaces mode and
IV together and needs no key. Derived: how a draw is held (`nextRnd`, `afterDraw`) is the model's choice (log entry 2),
and so is what `exec` does for `b` above 1, which no word decodes to (log entry 10; R226: such a word is
`IllegalCommand`). -/
def Obligations.MinitSetsModeAndIv : Prop :=
  EncodedAB 0x70 .minit (fun b => decide (b.toNat ≤ 1)) ∧
  (∀ (a b : Byte) (s : State), 3 < a.toNat → exec (.minit a b) s = .next { s with resp := 0x05 }) ∧
  (∀ (b : Byte) (s : State), exec (.minit 0 b) s = .next { s with
    mode := .ecb, modeValid := true, iv := Block.zero, ivValid := false, fb := Block.zero, resp := 0x00 }) ∧
  (∀ (a : Byte) (m : Mode) (s : State), (a, m) = (1, .cbc) ∨ (a, m) = (2, .cfb) ∨ (a, m) = (3, .ofb) →
    (s.din.length ≠ 16 → exec (.minit a 0) s = .next { s with resp := 0x06 }) ∧
    (s.din.length = 16 → ∀ v : Block, (∀ i < 16, byteAt v i = s.din.getD i 0) →
      exec (.minit a 0) s = .next { s with
        mode := m, modeValid := true, iv := v, ivValid := true, fb := v, resp := 0x00 }) ∧
    (∀ v : Block, v = nextRnd s.rng → exec (.minit a 1) s = .next { s with
      mode := m, modeValid := true, iv := v, ivValid := true, fb := v, rng := afterDraw s.rng, resp := 0x00 }))

/-- R240: in a feedback mode with `b = 1` `MINIT` succeeds and the IV is the block the source supplies, whichever it is;
one block per `MINIT`, and no other command consults the source. -/
def Obligations.RandomSourceServesMinitAlone : Prop :=
  (∀ (s : State) (a : Byte) (rnd : Block), 1 ≤ a.toNat → a.toNat ≤ 3 → s.rng.injected = some rnd →
    ∃ t : State, exec (.minit a 1) s = .next t ∧ t.resp = 0x00 ∧ t.iv = rnd ∧ t.fb = rnd ∧ t.rng.draws = s.rng.draws + 1) ∧
  (∀ (i : Instr) (s t : State), drawsRnd i = false → exec i s = .next t → t.rng = s.rng)

/-- R192-R199: the block steps of the four modes, for any two functions in the place of the engine's two directions. -/
def Obligations.BlockStepsFollowTheModeTable : Prop :=
  ∀ (E D : Block → Block) (f x : Block),
    stepEnc E .ecb f x = ⟨E x, f, E x⟩ ∧
    (∃ c, c = E (x.xor f) ∧ stepEnc E .cbc f x = ⟨c, c, c⟩) ∧
    (∃ e c, e = E f ∧ c = x.xor e ∧ stepEnc E .cfb f x = ⟨c, c, e⟩) ∧
    (∃ e c, e = E f ∧ c = x.xor e ∧ stepEnc E .ofb f x = ⟨c, e, e⟩) ∧
    stepDec E D .ecb f x = ⟨D x, f, D x⟩ ∧
    (∃ e, e = D x ∧ stepDec E D .cbc f x = ⟨e.xor f, x, e⟩) ∧
    (∃ e, e = E f ∧ stepDec E D .cfb f x = ⟨x.xor e, x, e⟩) ∧
    (∃ e, e = E f ∧ stepDec E D .ofb f x = ⟨x.xor e, e, e⟩) ∧
    stepDec E D .ofb f x = stepEnc E .ofb f x

/-- R200: `MENC` pads, then chains over the blocks from `IV`; it writes the chain's output to `DOUT`, the last engine
output to `STATE` and, in a feedback mode, the last feedback to `FB`; with no key or no mode it is rejected. -/
def Obligations.MencPadsThenChains : Prop :=
  EncodedZ 0x71 .menc ∧
  (∀ s : State, s.keyValid = false ∨ s.modeValid = false → exec .menc s = .next { s with resp := 0x07 }) ∧
  (∀ (s : State) (n : Nat), s.keyValid = true → s.modeValid = true → n = s.din.length / 16 + 1 →
    ∃ f c e : Nat → Block,
      ChainValues (stepEnc (encrypt s.w s.nr.toNat) s.mode) s.iv n
        (fun i => blockOfBytes ((padBytes s.din).drop (16 * i))) f c e ∧
      exec .menc s = .next { s with
        fb := if s.mode = .ecb then s.fb else f n, state := e (n - 1),
        dout := (List.range n).flatMap (fun i => blockBytes (c i)), resp := 0x00 })

/-- R201: `MDEC` chains over the blocks of `DIN` from `IV`, then strips the padding; it is rejected with no key or no
mode, on a length that is no multiple of 16, and, after the chain and with nothing committed, on corrupt padding. -/
def Obligations.MdecChainsThenUnpads : Prop :=
  EncodedZ 0x72 .mdec ∧
  (∀ s : State, s.keyValid = false ∨ s.modeValid = false → exec .mdec s = .next { s with resp := 0x07 }) ∧
  (∀ s : State, s.keyValid = true → s.modeValid = true → s.din.length % 16 ≠ 0 →
    exec .mdec s = .next { s with resp := 0x03 }) ∧
  (∀ (s : State) (n : Nat), s.keyValid = true → s.modeValid = true → s.din.length = 16 * n →
    ∃ (f x e : Nat → Block) (y : List Byte),
      ChainValues (stepDec (encrypt s.w s.nr.toNat) (decrypt s.w s.nr.toNat) s.mode) s.iv n
        (fun i => blockOfBytes (s.din.drop (16 * i))) f x e ∧
      y = (List.range n).flatMap (fun i => blockBytes (x i)) ∧
      (unpadBytes y = none → exec .mdec s = .next { s with resp := 0x04 }) ∧
      (∀ r, unpadBytes y = some r → exec .mdec s = .next { s with
        fb := if s.mode = .ecb then s.fb else f n, state := e (n - 1), dout := r, resp := 0x00 }))

/-- R203: `IVREAD` returns the sixteen bytes of `IV`, or is rejected where there is no mode layer or no IV. -/
def Obligations.IvreadReturnsConstructedIv : Prop :=
  EncodedZ 0x73 .ivread ∧ ∀ s : State,
    (s.modeValid = false ∨ s.ivValid = false → exec .ivread s = .next { s with resp := 0x07 }) ∧
    (s.modeValid = true → s.ivValid = true →
      exec .ivread s = .next { s with dout := blockBytes s.iv, resp := 0x00 })

/-- The mode round trip of R205 (a): for every mode, key schedule, IV and message, `MDEC` of the output of `MENC`
returns the message, on the same core or on another one configured alike. -/
def Obligations.MessageRoundTrip : Prop :=
  ∀ s u : State, s.keyValid = true → s.modeValid = true → u.keyValid = true → u.modeValid = true →
    u.w = s.w → u.nr = s.nr → u.mode = s.mode → u.iv = s.iv →
    ∃ t v : State, exec .menc s = .next t ∧ t.resp = 0x00 ∧ exec .mdec { u with din := t.dout } = .next v ∧
      v.resp = 0x00 ∧ v.dout = s.din

/-- R205 (b), the ECB part: equal blocks of the padded message at any two offsets give equal ciphertext blocks. -/
def Obligations.EcbEncryptsEqualBlocksAlike : Prop :=
  ∀ (s t : State) (i j : Nat), s.keyValid = true → s.modeValid = true → s.mode = .ecb → exec .menc s = .next t →
    i ≤ s.din.length / 16 → j ≤ s.din.length / 16 →
    ((padBytes s.din).drop (16 * i)).take 16 = ((padBytes s.din).drop (16 * j)).take 16 →
    (t.dout.drop (16 * i)).take 16 = (t.dout.drop (16 * j)).take 16

/-- R205 (c): the OFB chain without padding is its own inverse, and `MENC`'s chain and `MDEC`'s are the same function. -/
def Obligations.OfbChainIsSelfInverse : Prop :=
  ∀ (E D : Block → Block) (f e : Block) (ps : List Block),
    (chainBlocks (stepEnc E .ofb) f e (chainBlocks (stepEnc E .ofb) f e ps).blocks).blocks = ps ∧
    chainBlocks (stepDec E D .ofb) f e ps = chainBlocks (stepEnc E .ofb) f e ps

/-- R205 (d): CFB and OFB give the same first ciphertext block for the same key, IV and message. -/
def Obligations.CfbAndOfbAgreeOnFirstBlock : Prop :=
  ∀ s : State, s.keyValid = true → s.modeValid = true →
    ∃ t u : State, exec .menc { s with mode := .cfb } = .next t ∧ exec .menc { s with mode := .ofb } = .next u ∧
      t.resp = 0x00 ∧ u.resp = 0x00 ∧ t.dout.take 16 = u.dout.take 16 ∧ (t.dout.take 16).length = 16

/-- R264: every message starts from `IV`: a second `MENC` on the same `DIN` repeats the first in every register. -/
def Obligations.RepeatedMencRepeatsItsResult : Prop :=
  ∀ s : State, s.keyValid = true → s.modeValid = true →
    ∃ t : State, exec .menc s = .next t ∧ t.resp = 0x00 ∧ exec .menc t = .next t

/-- R265: in CBC and CFB a wrong IV spoils the first block alone: two cores that differ in the IV alone recover different
first blocks, and the same blocks from the second on. -/
def Obligations.WrongIvSpoilsFirstBlockOnly : Prop :=
  ∀ (s : State) (iv : Block) (cs : List Block), s.mode = .cbc ∨ s.mode = .cfb →
    (decryptChain { s with iv := iv } cs).blocks.tail = (decryptChain s cs).blocks.tail ∧
    (cs ≠ [] → iv ≠ s.iv → (decryptChain { s with iv := iv } cs).blocks.head? ≠ (decryptChain s cs).blocks.head?)

/-! ### Status and errors -/

/-- R215: `STAT` returns the seven status bytes in every state. -/
def Obligations.StatReportsConfiguration : Prop :=
  EncodedZ 0x01 .stat ∧ ∀ s : State, exec .stat s = .next { s with
    dout := [if s.keyValid then 1 else 0, s.klen, s.nk, s.nr, if s.modeValid then 1 else 0,
      (match s.mode with | .ecb => 0 | .cbc => 1 | .cfb => 2 | .ofb => 3), if s.ivValid then 1 else 0], resp := 0x00 }

/-- R228: every command ends in a next state; either it has succeeded with `RESP = 0x00`, or it was rejected with one of
its errors and nothing but `RESP` has changed. No command stops the machine. -/
def Obligations.RejectedCommandChangesOnlyResp : Prop :=
  ∀ (i : Instr) (s : State), ∃ t : State, exec i s = .next t ∧
    (t.resp = 0x00 ∨ ∃ e ∈ errorsOf i, RejectedWith e s t)

/-- R226: a command reports the first error that applies, in the fixed order, and succeeds where none applies; before all
of them comes the one error of the decoder, which depends on the word alone. -/
def Obligations.FirstApplicableErrorIsReported : Prop :=
  (∀ (i : Instr) (s : State), ∃ t : State, exec i s = .next t ∧
    (∀ e, firstError i s = some e → RejectedWith e s t) ∧ (firstError i s = none → t.resp = 0x00)) ∧
  (∀ (s : State) (cmd : CmdWord) (e : DecodeError) (rest : List HostAction), s.host.pending = .issue cmd :: rest →
    decode cmd = .error e → step s = .next { s with host := ⟨rest, s.host.readings⟩, resp := 0x08 })

/-! ### Rules of the whole machine -/

/-- The "w" columns of R38, and R216: what a command leaves unchanged. No command changes `DIN`, the host's side or the
capacity. -/
def Obligations.CommandsWriteOnlyMarkedRegisters : Prop :=
  ∀ (i : Instr) (s t : State), exec i s = .next t →
    t.din = s.din ∧ t.host = s.host ∧ t.bufcap = s.bufcap ∧
    (writesDout i = false → t.dout = s.dout) ∧ (writesState i = false → t.state = s.state) ∧
    (writesKey i = false → t.w = s.w ∧ t.keyValid = s.keyValid ∧ t.klen = s.klen ∧ t.nk = s.nk ∧ t.nr = s.nr) ∧
    (writesMode i = false → t.mode = s.mode ∧ t.modeValid = s.modeValid ∧ t.iv = s.iv ∧ t.ivValid = s.ivValid) ∧
    (writesFb i s.mode = false → t.fb = s.fb) ∧ (drawsRnd i = false → t.rng = s.rng)

/-- The "r" columns of R38: the outcome of a command depends only on the registers marked "r". In particular `FB` never
influences an outcome (R33), and `STATE` is no input of the engine and message commands (R172, R269). For a `MINIT` that
draws, the premise is also that the two states have the same random source, `s.rng = s'.rng`: where it holds no injection,
that two cores at the same draw number are then given the same block is the model's choice, which no rule states and which
is unsafe to carry over to two chips (log entry 15; the form of a draw is log entry 2). -/
def Obligations.OutcomeDependsOnlyOnMarkedRegisters : Prop :=
  ∀ (i : Instr) (s s' t t' : State), AgreeOnReads i s s' → exec i s = .next t → exec i s' = .next t' →
    t.resp = t'.resp ∧
    (t.resp = 0x00 →
      (writesDout i = true → t.dout = t'.dout) ∧ (writesState i = true → t.state = t'.state) ∧
      (writesKey i = true → t.w = t'.w ∧ t.keyValid = t'.keyValid ∧ t.klen = t'.klen ∧ t.nk = t'.nk ∧ t.nr = t'.nr) ∧
      (writesMode i = true → t.mode = t'.mode ∧ t.modeValid = t'.modeValid ∧ t.iv = t'.iv ∧ t.ivValid = t'.ivValid) ∧
      (writesFb i s.mode = true → t.fb = t'.fb) ∧ (drawsRnd i = true → t.rng = t'.rng))

/-- The invariant of R37 holds of the reset state. -/
def Obligations.ResetSatisfiesInvariant : Prop := State.reset.Inv

/-- Every step keeps the invariant of R37: the key registers agree, the mode registers agree, `RESP` holds a code of
R220, the buffers fit the capacity. -/
def Obligations.StepKeepsInvariant : Prop :=
  ∀ s t : State, s.Inv → step s = .next t → t.Inv

/-- R251: only a reset returns `KEY_VALID` or `MODE_VALID` to 0: no other step of the machine does. -/
def Obligations.OnlyResetClearsValidFlags : Prop :=
  ∀ s t : State, step s = .next t → (∀ rest, s.host.pending ≠ .reset :: rest) →
    (s.keyValid = true → t.keyValid = true) ∧ (s.modeValid = true → t.modeValid = true)
end

