-- ==== Sys2Proof/Laws/Bytes.lean ====
section
/-! SUPPORT. Words, blocks and byte sequences: exclusive-or, byte order, and the cutting of a sequence into blocks. -/

namespace Sys2Proof

/-! ### Exclusive-or -/

@[simp] theorem Word.xor_xor_cancel (x y : Word) : (x.xor y).xor y = x := by
  cases x; cases y; simp [Word.xor]

@[simp] theorem Block.xor_xor_cancel (x y : Block) : (x.xor y).xor y = x := by
  cases x; cases y; simp [Block.xor]

theorem Word.xor_comm (x y : Word) : x.xor y = y.xor x := by
  cases x; cases y; simp [Word.xor, BitVec.xor_comm]

theorem Block.xor_comm (x y : Block) : x.xor y = y.xor x := by
  simp [Block.xor, Word.xor_comm]

/-- Exclusive-or with a fixed block loses nothing. -/
theorem Block.xor_left_inj (x y z : Block) : x.xor y = x.xor z ↔ y = z := by
  refine ⟨fun h => ?_, fun h => h ▸ rfl⟩
  rw [← Block.xor_xor_cancel y x, ← Block.xor_xor_cancel z x, Block.xor_comm y x, Block.xor_comm z x, h]

end Sys2Proof

namespace Sys2Proof.Machine

/-! ### Byte order -/

@[simp] theorem wordBytes_length (x : Word) : (wordBytes x).length = 4 := rfl

@[simp] theorem blockBytes_length (x : Block) : (blockBytes x).length = 16 := rfl

@[simp] theorem wordOfBytes_append (x : Word) (rest : List Byte) : wordOfBytes (wordBytes x ++ rest) = x := rfl

@[simp] theorem blockOfBytes_append (x : Block) (rest : List Byte) : blockOfBytes (blockBytes x ++ rest) = x := rfl

@[simp] theorem blockOfBytes_blockBytes (x : Block) : blockOfBytes (blockBytes x) = x := rfl

/-- The sixteen bytes of a sequence of that length are its elements in order. -/
theorem blockBytes_blockOfBytes (x : List Byte) (h : x.length = 16) : blockBytes (blockOfBytes x) = x := by
  refine List.ext_getElem (by simp [h]) fun i h₁ h₂ => ?_
  simp only [blockBytes_length] at h₁
  interval_cases i <;> simp [blockBytes, wordBytes, blockOfBytes, wordOfBytes, h]

/-- Element `i` of the block of a sequence is element `i` of the sequence. -/
theorem byteAt_blockOfBytes (x : List Byte) (i : Nat) (hi : i < 16) : byteAt (blockOfBytes x) i = x.getD i 0 := by
  interval_cases i <;> simp [byteAt, blockBytes, wordBytes, blockOfBytes, wordOfBytes]

/-- Two blocks with the same sixteen elements are equal. -/
theorem block_ext_byteAt {x y : Block} (h : ∀ i < 16, byteAt x i = byteAt y i) : x = y := by
  have hb : blockBytes x = blockBytes y := by
    refine List.ext_getElem (by simp) fun i h₁ h₂ => ?_
    have := h i (by simpa using h₁)
    simpa only [byteAt, List.getD_eq_getElem _ _ h₁, List.getD_eq_getElem _ _ h₂] using this
  rw [← blockOfBytes_blockBytes x, hb, blockOfBytes_blockBytes]

/-- A word of the schedule seen as a register view: byte `4c + j` of a round key is byte `j` of its column `c`. -/
theorem byteAt_roundKey (w : Vector Word 60) (r c j : Nat) (hc : c < 4) (hj : j < 4) :
    byteAt (roundKey w r) (4 * c + j) = (wordBytes (wordAt w (4 * r + c))).getD j 0 := by
  interval_cases c <;> interval_cases j <;> rfl

/-! ### Sequences of blocks -/

@[simp] theorem bytesOfBlocks_nil : bytesOfBlocks [] = [] := rfl

@[simp] theorem bytesOfBlocks_cons (b : Block) (bs : List Block) :
    bytesOfBlocks (b :: bs) = blockBytes b ++ bytesOfBlocks bs := rfl

@[simp] theorem bytesOfBlocks_length (bs : List Block) : (bytesOfBlocks bs).length = 16 * bs.length := by
  induction bs with
  | nil => rfl
  | cons b bs ih => simp only [bytesOfBlocks_cons, List.length_append, blockBytes_length, ih, List.length_cons]; omega

@[simp] theorem takeBlocks_length (n : Nat) (x : List Byte) : (takeBlocks n x).length = n := by
  induction n generalizing x with
  | zero => rfl
  | succ n ih => simp [takeBlocks, ih]

@[simp] theorem takeBlocks_bytesOfBlocks (bs : List Block) : takeBlocks bs.length (bytesOfBlocks bs) = bs := by
  induction bs with
  | nil => rfl
  | cons b bs ih =>
    have hd : (blockBytes b ++ bytesOfBlocks bs).drop 16 = bytesOfBlocks bs := by
      simp [List.drop_append]
    simp [takeBlocks, hd, ih]

/-- Cutting the bytes of a sequence of blocks gives the blocks back. -/
@[simp] theorem blocksOf_bytesOfBlocks (bs : List Block) : blocksOf (bytesOfBlocks bs) = bs := by
  have h : (bytesOfBlocks bs).length / 16 = bs.length := by simp
  rw [blocksOf, h, takeBlocks_bytesOfBlocks]

theorem bytesOfBlocks_takeBlocks (n : Nat) (x : List Byte) (h : x.length = 16 * n) :
    bytesOfBlocks (takeBlocks n x) = x := by
  induction n generalizing x with
  | zero => simp_all [takeBlocks, List.length_eq_zero_iff]
  | succ n ih =>
    have hb : blockBytes (blockOfBytes x) = x.take 16 := by
      rw [← blockBytes_blockOfBytes (x.take 16) (by simp; omega)]
      congr 1
      exact block_ext_byteAt fun i hi => by
        simp only [byteAt_blockOfBytes _ _ hi, List.getD_eq_getElem?_getD, List.getElem?_take, if_pos hi]
    rw [takeBlocks, bytesOfBlocks_cons, ih _ (by simp; omega), hb, List.take_append_drop]

/-- The blocks of a sequence whose length is a multiple of 16 hold all its bytes. -/
theorem bytesOfBlocks_blocksOf (x : List Byte) (h : x.length % 16 = 0) : bytesOfBlocks (blocksOf x) = x :=
  bytesOfBlocks_takeBlocks _ _ (by omega)

/-- Block `i` of a cut sequence is the block at offset `16 i`. -/
theorem getElem?_takeBlocks (n i : Nat) (x : List Byte) (h : i < n) :
    (takeBlocks n x)[i]? = some (blockOfBytes (x.drop (16 * i))) := by
  induction n generalizing x i with
  | zero => omega
  | succ n ih =>
    cases i with
    | zero => simp [takeBlocks]
    | succ i => simp only [takeBlocks, List.getElem?_cons_succ, ih i _ (by omega), List.drop_drop]; congr 3; omega

end Sys2Proof.Machine
end

