-- ==== Sys2Proof/Laws/Decode.lean ====
section
/-! SUPPORT. The fields of a command word and the word of four fields undo each other (R70). -/

namespace Sys2Proof
@[simp] theorem opField_wordOfFields (op a b c : Byte) : opField (wordOfFields op a b c) = op := by
  apply BitVec.eq_of_getLsbD_eq
  intro i hi
  simp only [opField, wordOfFields, BitVec.getLsbD_extractLsb', BitVec.getLsbD_append, hi, decide_true, Bool.true_and]
  rw [if_neg (by omega), if_neg (by omega), if_neg (by omega)]
  congr 1; omega

@[simp] theorem aField_wordOfFields (op a b c : Byte) : aField (wordOfFields op a b c) = a := by
  apply BitVec.eq_of_getLsbD_eq
  intro i hi
  simp only [aField, wordOfFields, BitVec.getLsbD_extractLsb', BitVec.getLsbD_append, hi, decide_true, Bool.true_and]
  rw [if_neg (by omega), if_neg (by omega), if_pos (by omega)]
  congr 1; omega

@[simp] theorem bField_wordOfFields (op a b c : Byte) : bField (wordOfFields op a b c) = b := by
  apply BitVec.eq_of_getLsbD_eq
  intro i hi
  simp only [bField, wordOfFields, BitVec.getLsbD_extractLsb', BitVec.getLsbD_append, hi, decide_true, Bool.true_and]
  rw [if_neg (by omega), if_pos (by omega)]
  congr 1; omega

@[simp] theorem cField_wordOfFields (op a b c : Byte) : cField (wordOfFields op a b c) = c := by
  apply BitVec.eq_of_getLsbD_eq
  intro i hi
  simp only [cField, wordOfFields, BitVec.getLsbD_extractLsb', BitVec.getLsbD_append, hi, decide_true, Bool.true_and]
  rw [if_pos (by omega)]
  congr 1; omega

theorem wordOfFields_fields (cmd : CmdWord) :
    wordOfFields (opField cmd) (aField cmd) (bField cmd) (cField cmd) = cmd := by
  apply BitVec.eq_of_getLsbD_eq
  intro i hi
  simp only [opField, aField, bField, cField, wordOfFields, BitVec.getLsbD_extractLsb', BitVec.getLsbD_append]
  split_ifs <;> rw [decide_eq_true (by omega), Bool.true_and] <;> congr 1 <;> omega

/-- The decoder on a word given by its four fields: the pseudocode of R75. -/
theorem decode_wordOfFields (op a b c : Byte) :
    decode (wordOfFields op a b c) =
      match opcodeRow op a b with
      | none => .error .reservedOpcode
      | some (format, i) =>
        if c ≠ 0 then .error .nonzeroC
        else if format = .z ∧ (a ≠ 0 ∨ b ≠ 0) then .error .nonzeroOperandInZ
        else if format = .a ∧ b ≠ 0 then .error .nonzeroBInA
        else if op = 0x70 ∧ 1 < b.toNat then .error .ivSourceAboveOne
        else .ok i := by
  simp only [decode, opField_wordOfFields, aField_wordOfFields, bField_wordOfFields, cField_wordOfFields] <;> rfl

/-- What a row of the opcode map says of its command: its opcode, its operands by format, and its well-formedness. -/
theorem opcodeRow_spec (op a b : Byte) (format : Format) (i : Instr) (h : opcodeRow op a b = some (format, i)) :
    opcodeOf i = op ∧ (format = .z → operandsOf i = (0, 0)) ∧ (format = .a → operandsOf i = (a, 0)) ∧
      (format = .ab → operandsOf i = (a, b)) ∧ (op ≠ 0x70 ∨ b.toNat ≤ 1 → i.wf = true) := by
  unfold opcodeRow at h
  split at h <;> rename_i ho <;> simp only [Option.some.injEq, Prod.mk.injEq, reduceCtorEq] at h <;>
    obtain ⟨rfl, rfl⟩ := h <;>
    (have hop : op = BitVec.ofNat 8 op.toNat := by simp
     rw [ho] at hop
     subst hop
     simp [opcodeOf, operandsOf, Instr.wf, ivSourceOk])

end Sys2Proof
end

