-- ==== Sys2Proof/Laws/State.lean ====
section
/-! SUPPORT. For every named update of the state, one lemma per field: what the field holds after the update. -/

namespace Sys2Proof.Machine

variable (s : State)

/-! ### `State.setResp` -/

@[simp] theorem State.setResp_state (v : Byte) : (s.setResp v).state = s.state := rfl
@[simp] theorem State.setResp_w (v : Byte) : (s.setResp v).w = s.w := rfl
@[simp] theorem State.setResp_keyValid (v : Byte) : (s.setResp v).keyValid = s.keyValid := rfl
@[simp] theorem State.setResp_klen (v : Byte) : (s.setResp v).klen = s.klen := rfl
@[simp] theorem State.setResp_nk (v : Byte) : (s.setResp v).nk = s.nk := rfl
@[simp] theorem State.setResp_nr (v : Byte) : (s.setResp v).nr = s.nr := rfl
@[simp] theorem State.setResp_mode (v : Byte) : (s.setResp v).mode = s.mode := rfl
@[simp] theorem State.setResp_modeValid (v : Byte) : (s.setResp v).modeValid = s.modeValid := rfl
@[simp] theorem State.setResp_iv (v : Byte) : (s.setResp v).iv = s.iv := rfl
@[simp] theorem State.setResp_ivValid (v : Byte) : (s.setResp v).ivValid = s.ivValid := rfl
@[simp] theorem State.setResp_fb (v : Byte) : (s.setResp v).fb = s.fb := rfl
@[simp] theorem State.setResp_din (v : Byte) : (s.setResp v).din = s.din := rfl
@[simp] theorem State.setResp_dout (v : Byte) : (s.setResp v).dout = s.dout := rfl
@[simp] theorem State.setResp_resp (v : Byte) : (s.setResp v).resp = v := rfl
@[simp] theorem State.setResp_host (v : Byte) : (s.setResp v).host = s.host := rfl
@[simp] theorem State.setResp_rng (v : Byte) : (s.setResp v).rng = s.rng := rfl
@[simp] theorem State.setResp_bufcap (v : Byte) : (s.setResp v).bufcap = s.bufcap := rfl

/-! ### `State.setDout` -/

@[simp] theorem State.setDout_state (v : List Byte) : (s.setDout v).state = s.state := rfl
@[simp] theorem State.setDout_w (v : List Byte) : (s.setDout v).w = s.w := rfl
@[simp] theorem State.setDout_keyValid (v : List Byte) : (s.setDout v).keyValid = s.keyValid := rfl
@[simp] theorem State.setDout_klen (v : List Byte) : (s.setDout v).klen = s.klen := rfl
@[simp] theorem State.setDout_nk (v : List Byte) : (s.setDout v).nk = s.nk := rfl
@[simp] theorem State.setDout_nr (v : List Byte) : (s.setDout v).nr = s.nr := rfl
@[simp] theorem State.setDout_mode (v : List Byte) : (s.setDout v).mode = s.mode := rfl
@[simp] theorem State.setDout_modeValid (v : List Byte) : (s.setDout v).modeValid = s.modeValid := rfl
@[simp] theorem State.setDout_iv (v : List Byte) : (s.setDout v).iv = s.iv := rfl
@[simp] theorem State.setDout_ivValid (v : List Byte) : (s.setDout v).ivValid = s.ivValid := rfl
@[simp] theorem State.setDout_fb (v : List Byte) : (s.setDout v).fb = s.fb := rfl
@[simp] theorem State.setDout_din (v : List Byte) : (s.setDout v).din = s.din := rfl
@[simp] theorem State.setDout_dout (v : List Byte) : (s.setDout v).dout = v := rfl
@[simp] theorem State.setDout_resp (v : List Byte) : (s.setDout v).resp = s.resp := rfl
@[simp] theorem State.setDout_host (v : List Byte) : (s.setDout v).host = s.host := rfl
@[simp] theorem State.setDout_rng (v : List Byte) : (s.setDout v).rng = s.rng := rfl
@[simp] theorem State.setDout_bufcap (v : List Byte) : (s.setDout v).bufcap = s.bufcap := rfl

/-! ### `State.setState` -/

@[simp] theorem State.setState_state (v : Block) : (s.setState v).state = v := rfl
@[simp] theorem State.setState_w (v : Block) : (s.setState v).w = s.w := rfl
@[simp] theorem State.setState_keyValid (v : Block) : (s.setState v).keyValid = s.keyValid := rfl
@[simp] theorem State.setState_klen (v : Block) : (s.setState v).klen = s.klen := rfl
@[simp] theorem State.setState_nk (v : Block) : (s.setState v).nk = s.nk := rfl
@[simp] theorem State.setState_nr (v : Block) : (s.setState v).nr = s.nr := rfl
@[simp] theorem State.setState_mode (v : Block) : (s.setState v).mode = s.mode := rfl
@[simp] theorem State.setState_modeValid (v : Block) : (s.setState v).modeValid = s.modeValid := rfl
@[simp] theorem State.setState_iv (v : Block) : (s.setState v).iv = s.iv := rfl
@[simp] theorem State.setState_ivValid (v : Block) : (s.setState v).ivValid = s.ivValid := rfl
@[simp] theorem State.setState_fb (v : Block) : (s.setState v).fb = s.fb := rfl
@[simp] theorem State.setState_din (v : Block) : (s.setState v).din = s.din := rfl
@[simp] theorem State.setState_dout (v : Block) : (s.setState v).dout = s.dout := rfl
@[simp] theorem State.setState_resp (v : Block) : (s.setState v).resp = s.resp := rfl
@[simp] theorem State.setState_host (v : Block) : (s.setState v).host = s.host := rfl
@[simp] theorem State.setState_rng (v : Block) : (s.setState v).rng = s.rng := rfl
@[simp] theorem State.setState_bufcap (v : Block) : (s.setState v).bufcap = s.bufcap := rfl

/-! ### `State.setFb` -/

@[simp] theorem State.setFb_state (v : Block) : (s.setFb v).state = s.state := rfl
@[simp] theorem State.setFb_w (v : Block) : (s.setFb v).w = s.w := rfl
@[simp] theorem State.setFb_keyValid (v : Block) : (s.setFb v).keyValid = s.keyValid := rfl
@[simp] theorem State.setFb_klen (v : Block) : (s.setFb v).klen = s.klen := rfl
@[simp] theorem State.setFb_nk (v : Block) : (s.setFb v).nk = s.nk := rfl
@[simp] theorem State.setFb_nr (v : Block) : (s.setFb v).nr = s.nr := rfl
@[simp] theorem State.setFb_mode (v : Block) : (s.setFb v).mode = s.mode := rfl
@[simp] theorem State.setFb_modeValid (v : Block) : (s.setFb v).modeValid = s.modeValid := rfl
@[simp] theorem State.setFb_iv (v : Block) : (s.setFb v).iv = s.iv := rfl
@[simp] theorem State.setFb_ivValid (v : Block) : (s.setFb v).ivValid = s.ivValid := rfl
@[simp] theorem State.setFb_fb (v : Block) : (s.setFb v).fb = v := rfl
@[simp] theorem State.setFb_din (v : Block) : (s.setFb v).din = s.din := rfl
@[simp] theorem State.setFb_dout (v : Block) : (s.setFb v).dout = s.dout := rfl
@[simp] theorem State.setFb_resp (v : Block) : (s.setFb v).resp = s.resp := rfl
@[simp] theorem State.setFb_host (v : Block) : (s.setFb v).host = s.host := rfl
@[simp] theorem State.setFb_rng (v : Block) : (s.setFb v).rng = s.rng := rfl
@[simp] theorem State.setFb_bufcap (v : Block) : (s.setFb v).bufcap = s.bufcap := rfl

/-! ### `State.setKey` -/

@[simp] theorem State.setKey_state (x : Vector Word 60) (l k r : Byte) : (s.setKey x l k r).state = s.state := rfl
@[simp] theorem State.setKey_w (x : Vector Word 60) (l k r : Byte) : (s.setKey x l k r).w = x := rfl
@[simp] theorem State.setKey_keyValid (x : Vector Word 60) (l k r : Byte) : (s.setKey x l k r).keyValid = true := rfl
@[simp] theorem State.setKey_klen (x : Vector Word 60) (l k r : Byte) : (s.setKey x l k r).klen = l := rfl
@[simp] theorem State.setKey_nk (x : Vector Word 60) (l k r : Byte) : (s.setKey x l k r).nk = k := rfl
@[simp] theorem State.setKey_nr (x : Vector Word 60) (l k r : Byte) : (s.setKey x l k r).nr = r := rfl
@[simp] theorem State.setKey_mode (x : Vector Word 60) (l k r : Byte) : (s.setKey x l k r).mode = s.mode := rfl
@[simp] theorem State.setKey_modeValid (x : Vector Word 60) (l k r : Byte) : (s.setKey x l k r).modeValid = s.modeValid := rfl
@[simp] theorem State.setKey_iv (x : Vector Word 60) (l k r : Byte) : (s.setKey x l k r).iv = s.iv := rfl
@[simp] theorem State.setKey_ivValid (x : Vector Word 60) (l k r : Byte) : (s.setKey x l k r).ivValid = s.ivValid := rfl
@[simp] theorem State.setKey_fb (x : Vector Word 60) (l k r : Byte) : (s.setKey x l k r).fb = s.fb := rfl
@[simp] theorem State.setKey_din (x : Vector Word 60) (l k r : Byte) : (s.setKey x l k r).din = s.din := rfl
@[simp] theorem State.setKey_dout (x : Vector Word 60) (l k r : Byte) : (s.setKey x l k r).dout = s.dout := rfl
@[simp] theorem State.setKey_resp (x : Vector Word 60) (l k r : Byte) : (s.setKey x l k r).resp = s.resp := rfl
@[simp] theorem State.setKey_host (x : Vector Word 60) (l k r : Byte) : (s.setKey x l k r).host = s.host := rfl
@[simp] theorem State.setKey_rng (x : Vector Word 60) (l k r : Byte) : (s.setKey x l k r).rng = s.rng := rfl
@[simp] theorem State.setKey_bufcap (x : Vector Word 60) (l k r : Byte) : (s.setKey x l k r).bufcap = s.bufcap := rfl

/-! ### `State.setMode` -/

@[simp] theorem State.setMode_state (m : Mode) (v : Block) (b : Bool) : (s.setMode m v b).state = s.state := rfl
@[simp] theorem State.setMode_w (m : Mode) (v : Block) (b : Bool) : (s.setMode m v b).w = s.w := rfl
@[simp] theorem State.setMode_keyValid (m : Mode) (v : Block) (b : Bool) : (s.setMode m v b).keyValid = s.keyValid := rfl
@[simp] theorem State.setMode_klen (m : Mode) (v : Block) (b : Bool) : (s.setMode m v b).klen = s.klen := rfl
@[simp] theorem State.setMode_nk (m : Mode) (v : Block) (b : Bool) : (s.setMode m v b).nk = s.nk := rfl
@[simp] theorem State.setMode_nr (m : Mode) (v : Block) (b : Bool) : (s.setMode m v b).nr = s.nr := rfl
@[simp] theorem State.setMode_mode (m : Mode) (v : Block) (b : Bool) : (s.setMode m v b).mode = m := rfl
@[simp] theorem State.setMode_modeValid (m : Mode) (v : Block) (b : Bool) : (s.setMode m v b).modeValid = true := rfl
@[simp] theorem State.setMode_iv (m : Mode) (v : Block) (b : Bool) : (s.setMode m v b).iv = v := rfl
@[simp] theorem State.setMode_ivValid (m : Mode) (v : Block) (b : Bool) : (s.setMode m v b).ivValid = b := rfl
@[simp] theorem State.setMode_fb (m : Mode) (v : Block) (b : Bool) : (s.setMode m v b).fb = v := rfl
@[simp] theorem State.setMode_din (m : Mode) (v : Block) (b : Bool) : (s.setMode m v b).din = s.din := rfl
@[simp] theorem State.setMode_dout (m : Mode) (v : Block) (b : Bool) : (s.setMode m v b).dout = s.dout := rfl
@[simp] theorem State.setMode_resp (m : Mode) (v : Block) (b : Bool) : (s.setMode m v b).resp = s.resp := rfl
@[simp] theorem State.setMode_host (m : Mode) (v : Block) (b : Bool) : (s.setMode m v b).host = s.host := rfl
@[simp] theorem State.setMode_rng (m : Mode) (v : Block) (b : Bool) : (s.setMode m v b).rng = s.rng := rfl
@[simp] theorem State.setMode_bufcap (m : Mode) (v : Block) (b : Bool) : (s.setMode m v b).bufcap = s.bufcap := rfl

/-! ### `State.setDin` -/

@[simp] theorem State.setDin_state (v : List Byte) : (s.setDin v).state = s.state := rfl
@[simp] theorem State.setDin_w (v : List Byte) : (s.setDin v).w = s.w := rfl
@[simp] theorem State.setDin_keyValid (v : List Byte) : (s.setDin v).keyValid = s.keyValid := rfl
@[simp] theorem State.setDin_klen (v : List Byte) : (s.setDin v).klen = s.klen := rfl
@[simp] theorem State.setDin_nk (v : List Byte) : (s.setDin v).nk = s.nk := rfl
@[simp] theorem State.setDin_nr (v : List Byte) : (s.setDin v).nr = s.nr := rfl
@[simp] theorem State.setDin_mode (v : List Byte) : (s.setDin v).mode = s.mode := rfl
@[simp] theorem State.setDin_modeValid (v : List Byte) : (s.setDin v).modeValid = s.modeValid := rfl
@[simp] theorem State.setDin_iv (v : List Byte) : (s.setDin v).iv = s.iv := rfl
@[simp] theorem State.setDin_ivValid (v : List Byte) : (s.setDin v).ivValid = s.ivValid := rfl
@[simp] theorem State.setDin_fb (v : List Byte) : (s.setDin v).fb = s.fb := rfl
@[simp] theorem State.setDin_din (v : List Byte) : (s.setDin v).din = v := rfl
@[simp] theorem State.setDin_dout (v : List Byte) : (s.setDin v).dout = s.dout := rfl
@[simp] theorem State.setDin_resp (v : List Byte) : (s.setDin v).resp = s.resp := rfl
@[simp] theorem State.setDin_host (v : List Byte) : (s.setDin v).host = s.host := rfl
@[simp] theorem State.setDin_rng (v : List Byte) : (s.setDin v).rng = s.rng := rfl
@[simp] theorem State.setDin_bufcap (v : List Byte) : (s.setDin v).bufcap = s.bufcap := rfl

/-! ### `State.setHost` -/

@[simp] theorem State.setHost_state (v : HostSide) : (s.setHost v).state = s.state := rfl
@[simp] theorem State.setHost_w (v : HostSide) : (s.setHost v).w = s.w := rfl
@[simp] theorem State.setHost_keyValid (v : HostSide) : (s.setHost v).keyValid = s.keyValid := rfl
@[simp] theorem State.setHost_klen (v : HostSide) : (s.setHost v).klen = s.klen := rfl
@[simp] theorem State.setHost_nk (v : HostSide) : (s.setHost v).nk = s.nk := rfl
@[simp] theorem State.setHost_nr (v : HostSide) : (s.setHost v).nr = s.nr := rfl
@[simp] theorem State.setHost_mode (v : HostSide) : (s.setHost v).mode = s.mode := rfl
@[simp] theorem State.setHost_modeValid (v : HostSide) : (s.setHost v).modeValid = s.modeValid := rfl
@[simp] theorem State.setHost_iv (v : HostSide) : (s.setHost v).iv = s.iv := rfl
@[simp] theorem State.setHost_ivValid (v : HostSide) : (s.setHost v).ivValid = s.ivValid := rfl
@[simp] theorem State.setHost_fb (v : HostSide) : (s.setHost v).fb = s.fb := rfl
@[simp] theorem State.setHost_din (v : HostSide) : (s.setHost v).din = s.din := rfl
@[simp] theorem State.setHost_dout (v : HostSide) : (s.setHost v).dout = s.dout := rfl
@[simp] theorem State.setHost_resp (v : HostSide) : (s.setHost v).resp = s.resp := rfl
@[simp] theorem State.setHost_host (v : HostSide) : (s.setHost v).host = v := rfl
@[simp] theorem State.setHost_rng (v : HostSide) : (s.setHost v).rng = s.rng := rfl
@[simp] theorem State.setHost_bufcap (v : HostSide) : (s.setHost v).bufcap = s.bufcap := rfl

/-! ### `State.setRng` -/

@[simp] theorem State.setRng_state (v : RandomSource) : (s.setRng v).state = s.state := rfl
@[simp] theorem State.setRng_w (v : RandomSource) : (s.setRng v).w = s.w := rfl
@[simp] theorem State.setRng_keyValid (v : RandomSource) : (s.setRng v).keyValid = s.keyValid := rfl
@[simp] theorem State.setRng_klen (v : RandomSource) : (s.setRng v).klen = s.klen := rfl
@[simp] theorem State.setRng_nk (v : RandomSource) : (s.setRng v).nk = s.nk := rfl
@[simp] theorem State.setRng_nr (v : RandomSource) : (s.setRng v).nr = s.nr := rfl
@[simp] theorem State.setRng_mode (v : RandomSource) : (s.setRng v).mode = s.mode := rfl
@[simp] theorem State.setRng_modeValid (v : RandomSource) : (s.setRng v).modeValid = s.modeValid := rfl
@[simp] theorem State.setRng_iv (v : RandomSource) : (s.setRng v).iv = s.iv := rfl
@[simp] theorem State.setRng_ivValid (v : RandomSource) : (s.setRng v).ivValid = s.ivValid := rfl
@[simp] theorem State.setRng_fb (v : RandomSource) : (s.setRng v).fb = s.fb := rfl
@[simp] theorem State.setRng_din (v : RandomSource) : (s.setRng v).din = s.din := rfl
@[simp] theorem State.setRng_dout (v : RandomSource) : (s.setRng v).dout = s.dout := rfl
@[simp] theorem State.setRng_resp (v : RandomSource) : (s.setRng v).resp = s.resp := rfl
@[simp] theorem State.setRng_host (v : RandomSource) : (s.setRng v).host = s.host := rfl
@[simp] theorem State.setRng_rng (v : RandomSource) : (s.setRng v).rng = v := rfl
@[simp] theorem State.setRng_bufcap (v : RandomSource) : (s.setRng v).bufcap = s.bufcap := rfl

end Sys2Proof.Machine
end

