-- ==== Sys2Proof/Laws/Ops.lean ====
section
/-! SUPPORT. For each shared operation, what it answers, said once. -/

namespace Sys2Proof.Machine

/-! ### How a command ends -/

/-- A rejection is a next state in which only `RESP` differs. -/
@[simp] theorem raiseError_eq (e : Error) (s : State) : raiseError e s = .next { s with resp := e.code } := rfl

/-- A success is a next state with `RESP = 0x00`. -/
@[simp] theorem complete_eq (s : State) : complete s = .next { s with resp := 0x00 } := rfl

/-- No error has the code of success. -/
theorem Error.code_ne_zero (e : Error) : e.code ≠ 0x00 := by cases e <;> decide

/-- The codes tell the errors apart. -/
theorem Error.code_injective (e e' : Error) (h : e.code = e'.code) : e = e' := by
  cases e <;> cases e' <;> first | rfl | exact absurd h (by decide)

theorem Error.code_le (e : Error) : e.code.toNat ≤ 9 := by cases e <;> decide

/-! ### Operands -/

theorem dinBlock_of_length (s : State) (h : s.din.length = 16) : dinBlock s = some (blockOfBytes s.din) := if_pos h

theorem dinBlock_of_length_ne (s : State) (h : s.din.length ≠ 16) : dinBlock s = none := if_neg h

/-- What a command with a round-key index does: it is rejected for want of a key, or for its index, or it transforms
`STATE` with that round key. -/
theorem transformWithRoundKey_cases (s : State) (a : Byte) (f : Block → Block → Block) :
    (s.keyValid = false ∧ transformWithRoundKey s a f = .next { s with resp := 0x07 }) ∨
    (s.keyValid = true ∧ s.nr.toNat < a.toNat ∧ transformWithRoundKey s a f = .next { s with resp := 0x09 }) ∨
    (s.keyValid = true ∧ a.toNat ≤ s.nr.toNat ∧ transformWithRoundKey s a f =
      .next { s with state := f s.state (roundKey s.w a.toNat), resp := 0x00 }) := by
  cases hk : s.keyValid with
  | false => exact .inl ⟨rfl, by simp [transformWithRoundKey, keyReady, hk, Error.code]⟩
  | true =>
    rcases Nat.lt_or_ge s.nr.toNat a.toNat with h | h
    · exact .inr (.inl ⟨rfl, h, by simp [transformWithRoundKey, keyReady, roundIndexOk, hk, h, Error.code]⟩)
    · exact .inr (.inr ⟨rfl, h, by
        simp [transformWithRoundKey, keyReady, roundIndexOk, hk, Nat.not_lt.mpr h, State.setState]⟩)

/-- What a block command does: it is rejected for want of a key, or for the length of `DIN`, or it writes the engine's
output to `STATE` and `DOUT`. -/
theorem runEngine_cases (s : State) (engine : Block → Block) :
    (s.keyValid = false ∧ runEngine s engine = .next { s with resp := 0x07 }) ∨
    (s.keyValid = true ∧ s.din.length ≠ 16 ∧ runEngine s engine = .next { s with resp := 0x02 }) ∨
    (s.keyValid = true ∧ s.din.length = 16 ∧ runEngine s engine = .next { s with
      state := engine (blockOfBytes s.din), dout := blockBytes (engine (blockOfBytes s.din)), resp := 0x00 }) := by
  cases hk : s.keyValid with
  | false => exact .inl ⟨rfl, by simp [runEngine, keyReady, hk, Error.code]⟩
  | true =>
    by_cases h : s.din.length = 16
    · exact .inr (.inr ⟨rfl, h, by
        simp [runEngine, keyReady, dinBlock, hk, h, State.setState, State.setDout]⟩)
    · exact .inr (.inl ⟨rfl, h, by simp [runEngine, keyReady, dinBlock, hk, h, Error.code]⟩)

/-- What `MINIT` does, by its mode operand. -/
theorem modeOfOperand_cases (a : Byte) :
    (a = 0 ∧ modeOfOperand a = some .ecb) ∨ (a = 1 ∧ modeOfOperand a = some .cbc) ∨
    (a = 2 ∧ modeOfOperand a = some .cfb) ∨ (a = 3 ∧ modeOfOperand a = some .ofb) ∨
    (3 < a.toNat ∧ modeOfOperand a = none) := by
  revert a; decide

/-! ### The key schedule as storage -/

theorem wordAt_scheduleRegister (ws : List Word) (i : Nat) (h : i < 60) :
    wordAt (scheduleRegister ws) i = ws.getD i Word.zero := by
  simp [wordAt, scheduleRegister, h]

/-! ### Padding -/

theorem padCount_range (n : Nat) : 1 ≤ padCount n ∧ padCount n ≤ 16 := by unfold padCount; omega

theorem padBytes_length (x : List Byte) : (padBytes x).length = 16 * (x.length / 16 + 1) := by
  simp only [padBytes, List.length_append, List.length_replicate, padCount]; omega

/-! ### Chains -/

@[simp] theorem chainBlocks_nil (step : Block → Block → BlockStep) (f e : Block) :
    chainBlocks step f e [] = ⟨[], f, e⟩ := rfl

@[simp] theorem chainBlocks_cons (step : Block → Block → BlockStep) (f e p : Block) (ps : List Block) :
    chainBlocks step f e (p :: ps) =
      ⟨(step f p).out :: (chainBlocks step (step f p).feedback (step f p).engine ps).blocks,
        (chainBlocks step (step f p).feedback (step f p).engine ps).feedback,
        (chainBlocks step (step f p).feedback (step f p).engine ps).engine⟩ := rfl

/-- A chain yields one block for each block. -/
@[simp] theorem chainBlocks_length (step : Block → Block → BlockStep) (f e : Block) (ps : List Block) :
    (chainBlocks step f e ps).blocks.length = ps.length := by
  induction ps generalizing f e with
  | nil => rfl
  | cons p ps ih => simp [ih]

/-- The engine output before the first block is used only where there is no block. -/
theorem chainBlocks_engine_irrelevant (step : Block → Block → BlockStep) (f e e' : Block) (ps : List Block) :
    (chainBlocks step f e ps).blocks = (chainBlocks step f e' ps).blocks ∧
    (chainBlocks step f e ps).feedback = (chainBlocks step f e' ps).feedback ∧
    (ps ≠ [] → (chainBlocks step f e ps).engine = (chainBlocks step f e' ps).engine) := by
  cases ps <;> simp

/-! ### The step -/

/-- What issuing a word does: the one rejection of a word that is no command, or the command, up to the capacity. -/
theorem hostIssue_cases (cmd : CmdWord) (s : State) :
    (∃ e, decode cmd = .error e ∧ hostIssue cmd s = .next { s with resp := 0x08 }) ∨
    (∃ i, decode cmd = .ok i ∧ hostIssue cmd s = withinCapacity (exec i s)) := by
  cases h : decode cmd with
  | error e => exact .inl ⟨e, rfl, by simp [hostIssue, h, Error.code]⟩
  | ok i => exact .inr ⟨i, rfl, by simp [hostIssue, h]⟩

/-- A next state within the capacity is the next state of the command, and it fits. -/
theorem withinCapacity_next (r : Result) (t : State) :
    withinCapacity r = .next t ↔ r = .next t ∧ fitsCapacity t.bufcap t.dout.length = true := by
  cases r with
  | next u =>
    simp only [withinCapacity]
    split
    · rename_i h
      constructor
      · intro hu; cases hu; exact ⟨rfl, h⟩
      · rintro ⟨hu, -⟩; exact hu
    · rename_i h
      constructor
      · intro hu; cases hu
      · rintro ⟨hu, h'⟩; cases hu; exact absurd h' h
  | fault f => simp [withinCapacity]
  | refused f => simp [withinCapacity]

end Sys2Proof.Machine
end

