-- ==== Sys2Proof/Laws/PerInstr.lean ====
section
/-! SUPPORT. One family of statements made per constructor of `Instr`: the four fields of a command's word. -/

namespace Sys2Proof.Laws.FieldsOfWord

/-- The fields of the word of `i` are its opcode, its two operands and a zero `c` (R70-R74). -/
def Statement (i : Instr) : Prop :=
  opField (encode i) = opcodeOf i ∧ aField (encode i) = (operandsOf i).1 ∧ bField (encode i) = (operandsOf i).2 ∧
    cField (encode i) = 0

/-- The fields of the word of any command, from the fields of a word built of four. -/
theorem of_encode (i : Instr) : Statement i := by simp [Statement, encode]

theorem stat : Statement .stat := of_encode _
theorem mul2 (a : Byte) : Statement (.mul2 a) := of_encode _
theorem gfmul (a b : Byte) : Statement (.gfmul a b) := of_encode _
theorem sbox (a : Byte) : Statement (.sbox a) := of_encode _
theorem isbox (a : Byte) : Statement (.isbox a) := of_encode _
theorem keyload : Statement .keyload := of_encode _
theorem kwread (a : Byte) : Statement (.kwread a) := of_encode _
theorem rkread (a : Byte) : Statement (.rkread a) := of_encode _
theorem stload : Statement .stload := of_encode _
theorem stread : Statement .stread := of_encode _
theorem subbytes : Statement .subbytes := of_encode _
theorem shiftrows : Statement .shiftrows := of_encode _
theorem mixcols : Statement .mixcols := of_encode _
theorem addrk (a : Byte) : Statement (.addrk a) := of_encode _
theorem isubbytes : Statement .isubbytes := of_encode _
theorem ishiftrows : Statement .ishiftrows := of_encode _
theorem imixcols : Statement .imixcols := of_encode _
theorem fround (a : Byte) : Statement (.fround a) := of_encode _
theorem ffinal (a : Byte) : Statement (.ffinal a) := of_encode _
theorem iround (a : Byte) : Statement (.iround a) := of_encode _
theorem ifinal (a : Byte) : Statement (.ifinal a) := of_encode _
theorem encb : Statement .encb := of_encode _
theorem decb : Statement .decb := of_encode _
theorem pencb (a : Byte) : Statement (.pencb a) := of_encode _
theorem pad : Statement .pad := of_encode _
theorem unpad : Statement .unpad := of_encode _
theorem minit (a b : Byte) : Statement (.minit a b) := of_encode _
theorem menc : Statement .menc := of_encode _
theorem mdec : Statement .mdec := of_encode _
theorem ivread : Statement .ivread := of_encode _

end Sys2Proof.Laws.FieldsOfWord
end

