-- ==== Sys2Proof/Tests/Slice0.lean ====
section
/-! SUPPORT. Tests of single definitions and single steps against values that the spec prints (95_test_vectors.md, its
`V` numbers), and for every statement with hypotheses a witness that meets them. -/

set_option maxRecDepth 20000

namespace Sys2Proof.Tests

open Sys2Proof.Machine

/-! ### Helpers -/

/-- The `n` bytes of a number written in hexadecimal, the leftmost pair of digits first (R10). -/
def bytes (n x : Nat) : List Byte := (List.range n).map fun i => BitVec.ofNat 8 (x >>> (8 * (n - 1 - i)))

/-- The block of 32 hexadecimal digits. -/
def block (x : Nat) : Block := blockOfBytes (bytes 16 x)

/-- A core after reset, with these bytes in `DIN`. -/
def fresh (din : List Byte) : State := { State.reset with din := din }

/-- A core with the key of V1 loaded, and these bytes in `DIN`. -/
def keyed (din : List Byte) : State :=
  { State.reset with
    w := scheduleRegister (expandKey 4 10 (bytes 16 0x000102030405060708090a0b0c0d0e0f))
    keyValid := true
    klen := 16
    nk := 4
    nr := 10
    din := din }

/-- The same core, its mode layer constructed for `mode` with the IV `000102 … 0f`. -/
def ready (mode : Mode) (din : List Byte) : State :=
  { keyed din with
    mode := mode
    modeValid := true
    iv := block 0x000102030405060708090a0b0c0d0e0f
    ivValid := true
    fb := block 0x000102030405060708090a0b0c0d0e0f }

/-- The same state with these host actions pending. -/
def withPending (s : State) (actions : List HostAction) : State := { s with host := ⟨actions, []⟩ }

/-- `RESP` and `DOUT` after the host has issued this word. -/
def answer (cmd : CmdWord) (s : State) : Option (Byte × List Byte) :=
  match step (withPending s [.issue cmd]) with
  | .next t => some (t.resp, t.dout)
  | .fault _ => none
  | .refused _ => none

/-- `RESP` and `STATE` after the host has issued this word. -/
def workingState (cmd : CmdWord) (s : State) : Option (Byte × Block) :=
  match step (withPending s [.issue cmd]) with
  | .next t => some (t.resp, t.state)
  | .fault _ => none
  | .refused _ => none

/-! ### Well-formedness: the one ill-formed shape, on each side of its boundary (R73) -/

theorem test_wf_refuses_iv_source_above_one : (Instr.minit 1 2).wf = false ∧ (Instr.minit 0 255).wf = false := by decide

theorem test_wf_accepts_both_iv_sources : (Instr.minit 255 0).wf = true ∧ (Instr.minit 3 1).wf = true := by decide

/-! ### Decoding: one word for every command, written out bit by bit as `op`, `a`, `b`, `c` (R70-R73, R76) -/

theorem test_decode_system : decode 0b00000001000000000000000000000000 = .ok .stat := rfl

theorem test_decode_multiplier :
    decode 0b00010000010101110000000000000000 = .ok (.mul2 0x57) ∧
    decode 0b00010001010101111000001100000000 = .ok (.gfmul 0x57 0x83) := by
  refine ⟨rfl, rfl⟩

theorem test_decode_tables :
    decode 0b00100000010100110000000000000000 = .ok (.sbox 0x53) ∧
    decode 0b00100001111011010000000000000000 = .ok (.isbox 0xED) := by
  refine ⟨rfl, rfl⟩

theorem test_decode_key_schedule :
    decode 0b00110000000000000000000000000000 = .ok .keyload ∧
    decode 0b00110001001010110000000000000000 = .ok (.kwread 43) ∧
    decode 0b00110010000010100000000000000000 = .ok (.rkread 10) := by
  refine ⟨rfl, rfl, rfl⟩

theorem test_decode_stages :
    decode 0b01000000000000000000000000000000 = .ok .stload ∧
    decode 0b01000001000000000000000000000000 = .ok .stread ∧
    decode 0b01000010000000000000000000000000 = .ok .subbytes ∧
    decode 0b01000011000000000000000000000000 = .ok .shiftrows ∧
    decode 0b01000100000000000000000000000000 = .ok .mixcols ∧
    decode 0b01000101000000010000000000000000 = .ok (.addrk 1) ∧
    decode 0b01000110000000000000000000000000 = .ok .isubbytes ∧
    decode 0b01000111000000000000000000000000 = .ok .ishiftrows ∧
    decode 0b01001000000000000000000000000000 = .ok .imixcols := by
  refine ⟨rfl, rfl, rfl, rfl, rfl, rfl, rfl, rfl, rfl⟩

theorem test_decode_rounds :
    decode 0b01001001000000100000000000000000 = .ok (.fround 2) ∧
    decode 0b01001010000010100000000000000000 = .ok (.ffinal 10) ∧
    decode 0b01001011000010010000000000000000 = .ok (.iround 9) ∧
    decode 0b01001100000011100000000000000000 = .ok (.ifinal 14) := by
  refine ⟨rfl, rfl, rfl, rfl⟩

theorem test_decode_engine :
    decode 0b01010000000000000000000000000000 = .ok .encb ∧
    decode 0b01010001000000000000000000000000 = .ok .decb ∧
    decode 0b01010010111111110000000000000000 = .ok (.pencb 255) := by
  refine ⟨rfl, rfl, rfl⟩

theorem test_decode_padding :
    decode 0b01100000000000000000000000000000 = .ok .pad ∧
    decode 0b01100001000000000000000000000000 = .ok .unpad := by
  refine ⟨rfl, rfl⟩

theorem test_decode_modes :
    decode 0b01110000000000110000000100000000 = .ok (.minit 3 1) ∧
    decode 0b01110001000000000000000000000000 = .ok .menc ∧
    decode 0b01110010000000000000000000000000 = .ok .mdec ∧
    decode 0b01110011000000000000000000000000 = .ok .ivread := by
  refine ⟨rfl, rfl, rfl, rfl⟩

/-- V56 and R77: words that are no command, and why. -/
theorem test_decode_refuses :
    decode 0x00000000 = .error .reservedOpcode ∧ decode 0x02000000 = .error .reservedOpcode ∧
    decode 0x53000000 = .error .reservedOpcode ∧ decode 0xFF000000 = .error .reservedOpcode ∧
    decode 0x50000001 = .error .nonzeroC ∧ decode 0x11578301 = .error .nonzeroC ∧
    decode 0x50000100 = .error .nonzeroOperandInZ ∧ decode 0x50010000 = .error .nonzeroOperandInZ ∧
    decode 0x10570100 = .error .nonzeroBInA ∧ decode 0x70010200 = .error .ivSourceAboveOne := by
  refine ⟨rfl, rfl, rfl, rfl, rfl, rfl, rfl, rfl, rfl, rfl⟩

/-- Words that the spec prints (V5, V10, P2), from a command. -/
theorem test_encode :
    encode (.mul2 0x57) = 0x10570000 ∧ encode (.gfmul 0xD4 14) = 0x11D40E00 ∧ encode (.pencb 255) = 0x52FF0000 ∧
    encode (.minit 1 1) = 0x70010100 := by decide

/-- The table's number of an instruction, and the step that runs it (V5). -/
theorem test_decodeTableWord : decodeTableWord 32 0x10570000 = some (.mul2 0x57) ∧ decodeTableWord 32 0x50000001 = none ∧
    decodeTableWord 64 0x10570000 = none := by decide

theorem test_withFetchWord_runs_first :
    step (State.reset.withFetchWord 32 0x10570000) = .next { State.reset with dout := [0xAE] } := rfl

/-! ### Commands that need no key -/

/-- P4: `STAT` on a fresh core; and the order of the seven bytes (R215). -/
theorem test_stat : answer 0x01000000 (fresh []) = some (0x00, bytes 7 0) ∧
    answer 0x01000000 (ready .ofb []) = some (0x00, [1, 16, 4, 10, 1, 3, 1]) := by decide

/-- V2, V5. -/
theorem test_mul2 : answer 0x10570000 (fresh []) = some (0x00, [0xAE]) ∧
    answer 0x10800000 (fresh []) = some (0x00, [0x1B]) := by decide

/-- V4, V5. -/
theorem test_gfmul : answer 0x11578300 (fresh []) = some (0x00, [0xC1]) ∧
    answer 0x11D40E00 (fresh []) = some (0x00, [0x34]) := by decide

/-- V10. -/
theorem test_sbox : answer 0x20530000 (fresh []) = some (0x00, [0xED]) ∧
    answer 0x20000000 (fresh []) = some (0x00, [0x63]) := by decide

/-- V10. -/
theorem test_isbox : answer 0x21ED0000 (fresh []) = some (0x00, [0x53]) ∧
    answer 0x21FF0000 (fresh []) = some (0x00, [0x7D]) := by decide

/-- V32, V30. -/
theorem test_pad : answer 0x60000000 (fresh (bytes 3 0xaabbcc)) = some (0x00, bytes 16 0xaabbcc0d0d0d0d0d0d0d0d0d0d0d0d0d) ∧
    answer 0x60000000 (fresh []) = some (0x00, bytes 16 0x10101010101010101010101010101010) := by decide

/-- V38. -/
theorem test_unpad_last_byte_only :
    answer 0x61000000 (fresh (bytes 16 0xaabbccddeeff00112233445566770203)) =
      some (0x00, bytes 13 0xaabbccddeeff00112233445566) := by decide

/-- V39: `DOUT` keeps its contents. -/
theorem test_unpad_failures :
    [bytes 1 0x00, bytes 1 0x11, bytes 1 0x03, bytes 4 0xaabbcc00, []].map
      (fun y => answer 0x61000000 { fresh y with dout := [0xAA] }) = List.replicate 5 (some (0x04, [0xAA])) := by decide

/-- P6: the bytes of `DIN` in index order; V51: any other length. -/
theorem test_stload :
    workingState 0x40000000 (fresh (bytes 16 0x000102030405060708090a0b0c0d0e0f)) =
      some (0x00, ⟨⟨0, 1, 2, 3⟩, ⟨4, 5, 6, 7⟩, ⟨8, 9, 10, 11⟩, ⟨12, 13, 14, 15⟩⟩) ∧
    workingState 0x40000000 (fresh (bytes 17 0)) = some (0x02, Block.zero) := by decide

/-- P2. -/
theorem test_stread :
    answer 0x41000000 { fresh [] with state := block 0x63cab7040953d051cd60e0e7ba70e18c } =
      some (0x00, bytes 16 0x63cab7040953d051cd60e0e7ba70e18c) := by decide

/-- V17. -/
theorem test_stages :
    [0x42000000, 0x46000000, 0x43000000, 0x47000000, 0x44000000, 0x48000000].map
      (fun cmd => workingState cmd { fresh [] with state := block 0x000102030405060708090a0b0c0d0e0f }) =
    [0x637c777bf26b6fc53001672bfed7ab76, 0x52096ad53036a538bf40a39e81f3d7fb, 0x00050a0f04090e03080d02070c01060b,
      0x000d0a0704010e0b0805020f0c090603, 0x02070005060304010a0f080d0e0b0c09,
      0x0a0f080d0e0b0c090207000506030401].map (fun x => some (0x00, block x)) := by decide

/-- V18: columns of `MixColumns`, and that `InvMixColumns` maps each back. -/
theorem test_mix_columns :
    mixColumns (block 0xdb135345f20a225cd4bf5d302d26314c) = block 0x8e4da1bc9fdc589d046681e54d7ebdf8 ∧
    invMixColumns (block 0x8e4da1bc9fdc589d046681e54d7ebdf8) = block 0xdb135345f20a225cd4bf5d302d26314c := by decide

/-! ### The key schedule -/

/-- V1, V12: the schedule of a 16-byte key, its ends and the zero words above it. -/
theorem test_keyload_16 :
    exec .keyload (fresh (bytes 16 0x000102030405060708090a0b0c0d0e0f)) =
      .next (keyed (bytes 16 0x000102030405060708090a0b0c0d0e0f)) ∧
    roundKey (keyed []).w 1 = block 0xd6aa74fdd2af72fadaa678f1d6ab76fe ∧
    roundKey (keyed []).w 10 = block 0x13111d7fe3944a17f307a78b4d2b30c5 ∧ roundKey (keyed []).w 11 = Block.zero := by
  refine ⟨rfl, ?_, ?_, ?_⟩ <;> decide

/-- V13, V14: the last round keys of a 24-byte and of a 32-byte key. -/
theorem test_expandKey_24_32 :
    roundKey (scheduleRegister (expandKey 6 12 (bytes 24 0x000102030405060708090a0b0c0d0e0f1011121314151617))) 12 =
      block 0xa4970a331a78dc09c418c271e3a41d5d ∧
    roundKey (scheduleRegister (expandKey 8 14
      (bytes 32 0x000102030405060708090a0b0c0d0e0f101112131415161718191a1b1c1d1e1f))) 14 =
      block 0x24fc79ccbf0979e9371ac23c6d68de36 := by decide

/-- V12: the last word, and the first index beyond the schedule. -/
theorem test_kwread : answer 0x312B0000 (keyed []) = some (0x00, bytes 4 0x4d2b30c5) ∧
    answer 0x312C0000 (keyed []) = some (0x09, []) := by decide

/-- V12. -/
theorem test_rkread : answer 0x320A0000 (keyed []) = some (0x00, bytes 16 0x13111d7fe3944a17f307a78b4d2b30c5) ∧
    answer 0x320B0000 (keyed []) = some (0x09, []) := by decide

/-! ### Rounds and the cipher engine -/

/-- P2: the initial AddRoundKey of V1; V55: without a key. -/
theorem test_addrk :
    workingState 0x45000000 { keyed [] with state := block 0x00112233445566778899aabbccddeeff } =
      some (0x00, block 0x00102030405060708090a0b0c0d0e0f0) ∧
    workingState 0x45000000 (fresh []) = some (0x07, Block.zero) := by decide

/-- V19: the four round functions under the key of V1. -/
theorem test_rounds :
    [(0x49010000, 0x00102030405060708090a0b0c0d0e0f0), (0x4A0A0000, 0xbd6e7c3df2b5779e0b61216e8b10b689),
      (0x4C0A0000, 0x69c4e0d86a7b0430d8cdb78070b4c55a), (0x4B090000, 0xbd6e7c3df2b5779e0b61216e8b10b689)].map
      (fun p => workingState p.1 { keyed [] with state := block p.2 }) =
    [0x89d810e8855ace682d1843d8cb128fe4, 0x69c4e0d86a7b0430d8cdb78070b4c55a, 0xbd6e7c3df2b5779e0b61216e8b10b689,
      0xfde3bad205e5d0d73547964ef1fe37f1].map (fun x => some (0x00, block x)) := by decide

/-- V1: the known-answer vector of the source. -/
theorem test_encb : answer 0x50000000 (keyed (bytes 16 0x00112233445566778899aabbccddeeff)) =
    some (0x00, bytes 16 0x69c4e0d86a7b0430d8cdb78070b4c55a) := by decide

/-- P1. -/
theorem test_decb : answer 0x51000000 (keyed (bytes 16 0x69c4e0d86a7b0430d8cdb78070b4c55a)) =
    some (0x00, bytes 16 0x00112233445566778899aabbccddeeff) := by decide

/-- V24: two rounds; 255 is the full encryption. -/
theorem test_pencb : answer 0x52020000 (keyed (bytes 16 0x00112233445566778899aabbccddeeff)) =
      some (0x00, bytes 16 0x4915598f55e5d7a0daca94fa1f0a63f7) ∧
    answer 0x52FF0000 (keyed (bytes 16 0x00112233445566778899aabbccddeeff)) =
      some (0x00, bytes 16 0x69c4e0d86a7b0430d8cdb78070b4c55a) := by decide

/-! ### The mode sequencer -/

/-- V54, P4: an unsupported mode, a short IV, and the IV that ECB ignores. -/
theorem test_minit_errors : answer 0x70040000 (fresh (bytes 16 0)) = some (0x05, []) ∧
    answer 0x70010000 (fresh (bytes 8 0x0001020304050607)) = some (0x06, []) ∧
    answer 0x70000000 (fresh (bytes 8 0x0001020304050607)) = some (0x00, []) := by decide

/-- V47: the IV is the injected block, read back by `IVREAD`. -/
theorem test_minit_draws_iv :
    exec (.minit 1 1) { fresh [] with rng := ⟨some (block 0xa0a1a2a3a4a5a6a7a8a9aaabacadaeaf), 0⟩ } =
      .next { fresh [] with
        mode := .cbc, modeValid := true, iv := block 0xa0a1a2a3a4a5a6a7a8a9aaabacadaeaf, ivValid := true
        fb := block 0xa0a1a2a3a4a5a6a7a8a9aaabacadaeaf, rng := ⟨none, 1⟩ } := by rfl

/-- V41: the message `aabbcc` in CBC. -/
theorem test_menc_cbc : answer 0x71000000 (ready .cbc (bytes 3 0xaabbcc)) =
    some (0x00, bytes 16 0xbd9057584f4754234b54629007575c9b) := by decide

/-- V43: two blocks in CFB. -/
theorem test_menc_cfb : answer 0x71000000 (ready .cfb (bytes 20 0x00112233445566778899aabbccddeeff01020304)) =
    some (0x00, bytes 32 0x0a852986053b9632795a3ee30a8e04a5cdfc90b8e348d6ddf8f7bccc54adedcf) := by decide

/-- V43: two blocks in OFB, decrypted. -/
theorem test_mdec_ofb : answer 0x72000000
    (ready .ofb (bytes 32 0x0a852986053b9632795a3ee30a8e04a5afe51da14ddba247e76cb2c05533ba6f)) =
    some (0x00, bytes 20 0x00112233445566778899aabbccddeeff01020304) := by decide

/-- V53: corrupt padding in ECB; V52: an empty ciphertext and one of 15 bytes. -/
theorem test_mdec_errors : answer 0x72000000 (ready .ecb (bytes 16 0xfa2a16eb893b1ab7b0504894d54bf4c6)) = some (0x04, []) ∧
    answer 0x72000000 (ready .ecb []) = some (0x04, []) ∧ answer 0x72000000 (ready .ecb (bytes 15 0)) = some (0x03, []) := by
  decide

/-- P3; V55: no IV. -/
theorem test_ivread :
    answer 0x73000000 (ready .cbc []) = some (0x00, bytes 16 0x000102030405060708090a0b0c0d0e0f) ∧
    answer 0x73000000 { ready .ecb [] with ivValid := false } = some (0x07, []) := by decide

/-! ### Errors and their order -/

/-- V57: the order in which errors are tested. -/
theorem test_priority : answer 0x50000000 (fresh (bytes 5 0)) = some (0x07, []) ∧
    answer 0x32C80000 (fresh []) = some (0x07, []) ∧ answer 0x70090000 (fresh (bytes 3 0)) = some (0x05, []) ∧
    answer 0x70090200 (fresh []) = some (0x08, []) ∧ answer 0x72000000 (keyed (bytes 5 0)) = some (0x07, []) := by decide

/-- R8 (a): a finite capacity refuses what does not fit, and takes what does. -/
theorem test_capacity :
    step (withPending { State.reset with bufcap := some 6 } [.issue 0x01000000]) = .refused .bufferCapacity ∧
    step (withPending { State.reset with bufcap := some 7 } [.issue 0x01000000]) =
      .next { State.reset with bufcap := some 7, dout := bytes 7 0 } := ⟨rfl, rfl⟩
/-! ### Witnesses: for every statement with hypotheses, states and operands that meet all of them, clause by clause -/

/-- A core with the key of V1 and a 16-byte block in `DIN`. -/
def engineReady : State := keyed (bytes 16 0x00112233445566778899aabbccddeeff)

theorem witness_HostResetRestoresResetState : (withPending engineReady [.reset]).host.pending = [.reset] := rfl

/-- An input of exactly the capacity, and one of a byte more. -/
theorem witness_HostWriteReplacesDinOnly :
    (withPending { State.reset with bufcap := some 2 } [.writeDin [1, 2]]).host.pending = [.writeDin [1, 2]] ∧
    fitsCapacity (some 2) [(1 : Byte), 2].length = true ∧ fitsCapacity (some 2) [(1 : Byte), 2, 3].length = false := ⟨rfl, rfl, rfl⟩

theorem witness_HostReadsGiveValueAndChangeNothing :
    (withPending engineReady [.readResp]).host.pending = [.readResp] ∧
    (withPending engineReady [.readDout]).host.pending = [.readDout] := ⟨rfl, rfl⟩

theorem witness_CoreChangesOnlyByHostActions : engineReady.host.pending = [] ∧
    (withPending engineReady [.supplyRnd Block.zero]).host.pending = [.supplyRnd Block.zero] := ⟨rfl, rfl⟩

/-- With no bound; and `STAT`, whose output has seven bytes, at a capacity of seven and at one of six. -/
theorem witness_IssueRunsDecodedCommand : (withPending engineReady [.issue 0x50000000]).host.pending = [.issue 0x50000000] ∧
    decode 0x50000000 = .ok .encb ∧ (withPending engineReady [.issue 0x50000000]).bufcap = none ∧
    decode 0x01000000 = .ok .stat ∧
    (∃ t, exec .stat { State.reset with bufcap := some 7 } = .next t ∧ t.dout.length ≤ 7) ∧
    (∃ t, exec .stat { State.reset with bufcap := some 6 } = .next t ∧ 6 < t.dout.length) :=
  ⟨rfl, rfl, rfl, rfl, ⟨_, rfl, by decide⟩, ⟨_, rfl, by decide⟩⟩

/-- One word for each reason, and the words next to a row of the table. -/
theorem witness_WordOutsideTheTableIsRejected :
    (withPending engineReady [.issue 0x50000001]).host.pending = [.issue 0x50000001] ∧
    (∀ r ∈ opcodeTable, r.matches 0x00000000 = false) ∧
    (∀ r ∈ opcodeTable, r.matches 0x02000000 = false) ∧
    (∀ r ∈ opcodeTable, r.matches 0x50000001 = false) ∧
    (∀ r ∈ opcodeTable, r.matches 0x50000100 = false) ∧
    (∀ r ∈ opcodeTable, r.matches 0x50010000 = false) ∧
    (∀ r ∈ opcodeTable, r.matches 0x10570100 = false) ∧
    (∀ r ∈ opcodeTable, r.matches 0x11578301 = false) ∧
    (∀ r ∈ opcodeTable, r.matches 0x70000200 = false) := by
  refine ⟨rfl, ?_, ?_, ?_, ?_, ?_, ?_, ?_, ?_⟩ <;> decide

/-- Both sides of the equivalence hold for a word that matches, and fail for one that does not. -/
theorem witness_DecoderAgreesWithOpcodeTable :
    (∃ i, decode 0x70FF0100 = .ok i ∧ mnemonicOf i = "MINIT") ∧
    (∀ r ∈ opcodeTable, r.matches 0x70FF0200 = true → r.mnemonic ≠ "MINIT") := ⟨⟨_, rfl, rfl⟩, by decide⟩

theorem witness_DecodeOfEncodeIsIdentity : (Instr.minit 255 1).wf = true ∧ (Instr.gfmul 255 255).wf = true := by decide

theorem witness_EncodeOfDecodeIsIdentity : decode 0x70FF0100 = .ok (.minit 255 1) := rfl

theorem witness_GmulIsFieldMultiplication : (0x53 : Byte) ≠ 0 ∧ gmul 0x53 0xCA = 1 := by decide

/-- The two clauses of the inverse: index 0, and an index with an inverse (V4). -/
theorem witness_SboxIsInverseThenAffine : ((0 : Byte) = 0 → (0 : Byte) = 0) ∧ (0x53 : Byte) ≠ 0 ∧ gmul 0x53 0xCA = 0x01 := by
  decide

/-- The three lengths, the lengths next to them, and the bounds of the three ranges of words. -/
theorem witness_KeyloadExpandsTheKey :
    (∀ n ∈ [15, 17, 23, 25, 31, 33],
      (fresh (bytes n 0)).din.length ≠ 16 ∧ (fresh (bytes n 0)).din.length ≠ 24 ∧ (fresh (bytes n 0)).din.length ≠ 32) ∧
    (∀ p ∈ [(16, 4, 10), (24, 6, 12), (32, 8, 14)], ((fresh (bytes p.1 0)).din.length, p.2.1, p.2.2) = p) ∧
    (4 ≤ 4 ∧ 4 < 4 * (10 + 1) ∧ 4 * (10 + 1) ≤ 44 ∧ 44 < 60) ∧ (59 < 4 * (14 + 1) ∧ (12 % 8 = 4)) := by decide

/-- No key; the last legal index and the first illegal one of each of the two commands. -/
theorem witness_KeyReadsReturnTheSchedule : (fresh []).keyValid = false ∧ engineReady.keyValid = true ∧
    4 * (engineReady.nr.toNat + 1) ≤ (44 : Byte).toNat ∧ (43 : Byte).toNat < 4 * (engineReady.nr.toNat + 1) ∧
    engineReady.nr.toNat < (11 : Byte).toNat ∧ (10 : Byte).toNat ≤ engineReady.nr.toNat := by decide

theorem witness_RoundKeyReadIsFourWordReads : engineReady.keyValid = true ∧ engineReady.nr.toNat ≤ 14 ∧
    (10 : Byte).toNat ≤ engineReady.nr.toNat := by decide

theorem witness_SubBytesLooksUpEveryByte : 0 < 16 ∧ 15 < 16 := by decide

theorem witness_ShiftRowsRotatesEveryRow : byteAt (block 0x000102030405060708090a0b0c0d0e0f) 15 = 15 ∧ 15 < 16 := by decide

theorem witness_MixColumnsMultipliesEveryColumn : ∃ (c : Nat) (a0 a1 a2 a3 : Byte), c < 4 ∧
    a0 = byteAt (block 0x000102030405060708090a0b0c0d0e0f) (4 * c) ∧
    a1 = byteAt (block 0x000102030405060708090a0b0c0d0e0f) (4 * c + 1) ∧
    a2 = byteAt (block 0x000102030405060708090a0b0c0d0e0f) (4 * c + 2) ∧
    a3 = byteAt (block 0x000102030405060708090a0b0c0d0e0f) (4 * c + 3) := ⟨3, 12, 13, 14, 15, by decide⟩

theorem witness_InvMixColumnsUndoesMixColumns : ∃ (c : Nat) (a0 a1 a2 a3 : Byte), c < 4 ∧
    a0 = byteAt (block 0x000102030405060708090a0b0c0d0e0f) (4 * c) ∧
    a1 = byteAt (block 0x000102030405060708090a0b0c0d0e0f) (4 * c + 1) ∧
    a2 = byteAt (block 0x000102030405060708090a0b0c0d0e0f) (4 * c + 2) ∧
    a3 = byteAt (block 0x000102030405060708090a0b0c0d0e0f) (4 * c + 3) := ⟨0, 0, 1, 2, 3, by decide⟩

theorem witness_StateLoadAndReadKeepByteOrder : (fresh (bytes 15 0)).din.length ≠ 16 ∧ engineReady.din.length = 16 := by decide

theorem witness_RoundKeyCommandsTransformState : (fresh []).keyValid = false ∧ engineReady.keyValid = true ∧
    engineReady.nr.toNat < (11 : Byte).toNat ∧ (10 : Byte).toNat ≤ engineReady.nr.toNat := by decide

theorem witness_InverseCommandsRestoreState : engineReady.keyValid = true ∧ (10 : Byte).toNat ≤ engineReady.nr.toNat := by
  decide

/-- A sequence of states of two rounds that meets the recurrence. -/
theorem witness_EncryptIsTheRoundSequence (w : Vector Word 60) (x : Block) : ∃ st : Nat → Block, 1 ≤ 2 ∧
    st 0 = addRoundKey x (roundKey w 0) ∧ ∀ r, 1 ≤ r → r ≤ 2 - 1 → st r = fRound (st (r - 1)) (roundKey w r) := by
  refine ⟨fun r => forwardRounds w r (addRoundKey x (roundKey w 0)), by decide, rfl, fun r h₁ h₂ => ?_⟩
  obtain rfl : r = 1 := by omega
  rfl

/-- A sequence of states of two rounds that meets the recurrence. -/
theorem witness_DecryptInvertsEncrypt (w : Vector Word 60) (y : Block) : ∃ st : Nat → Block, 1 ≤ 2 ∧
    st (2 - 1) = iFinal y (roundKey w 2) ∧ ∀ r, 1 ≤ r → r ≤ 2 - 1 → st (r - 1) = iRound (st r) (roundKey w r) := by
  refine ⟨fun r => if r = 0 then iRound (iFinal y (roundKey w 2)) (roundKey w 1) else iFinal y (roundKey w 2),
    by decide, rfl, fun r h₁ h₂ => ?_⟩
  obtain rfl : r = 1 := by omega
  rfl

/-- At the boundary `n = Nr` and one below it. -/
theorem witness_PartialEncryptIsAPrefix : 10 ≤ 10 ∧ 0 < 10 ∧ 8 + 1 < 10 := by decide

theorem witness_BlockCommandsReturnEngineOutput : (fresh []).keyValid = false ∧ engineReady.keyValid = true ∧
    (keyed (bytes 17 0)).din.length ≠ 16 ∧ engineReady.din.length = 16 ∧
    ∀ i < 16, byteAt (block 0x00112233445566778899aabbccddeeff) i = engineReady.din.getD i 0 := by decide

theorem witness_BlockRoundTripThroughCommands : engineReady.keyValid = true ∧ engineReady.din.length = 16 := by decide

theorem witness_HandWalkEqualsEncb : engineReady.keyValid = true ∧ engineReady.din.length = 16 ∧ 1 ≤ engineReady.nr.toNat := by
  decide

/-- Empty, and a last byte at each boundary: 0 and 17 are no counts, 2 exceeds a length of 1, 1 and 16 are counts. -/
theorem witness_UnpadReadsLastByteOnly : (fresh []).din = [] ∧
    (fresh [0]).din = [] ++ [0] ∧ (0 : Byte).toNat < 1 ∧
    (fresh (bytes 16 0 ++ [17])).din = bytes 16 0 ++ [17] ∧ 16 < (17 : Byte).toNat ∧
    (fresh [2]).din = [] ++ [2] ∧ (fresh [2]).din.length < (2 : Byte).toNat ∧
    (fresh [1]).din = [] ++ [1] ∧ 1 ≤ (1 : Byte).toNat ∧ (1 : Byte).toNat ≤ 16 ∧ (1 : Byte).toNat ≤ (fresh [1]).din.length ∧
    (fresh (bytes 15 0 ++ [16])).din = bytes 15 0 ++ [16] ∧
      (16 : Byte).toNat ≤ (fresh (bytes 15 0 ++ [16])).din.length := by decide

/-- The first unsupported mode number; the three feedback modes; a `DIN` of 16 bytes and one of 15. -/
theorem witness_MinitSetsModeAndIv : 3 < (4 : Byte).toNat ∧
    (∀ p ∈ [((1 : Byte), Mode.cbc), (2, .cfb), (3, .ofb)], p = (1, .cbc) ∨ p = (2, .cfb) ∨ p = (3, .ofb)) ∧
    (fresh (bytes 15 0)).din.length ≠ 16 ∧ engineReady.din.length = 16 ∧
    ∀ i < 16, byteAt (block 0x00112233445566778899aabbccddeeff) i = engineReady.din.getD i 0 := by decide

/-- The first and the last feedback mode; a command that draws nothing and runs. -/
theorem witness_RandomSourceServesMinitAlone : 1 ≤ (1 : Byte).toNat ∧ (3 : Byte).toNat ≤ 3 ∧
    ({ fresh [] with rng := ⟨some Block.zero, 0⟩ } : State).rng.injected = some Block.zero ∧
    drawsRnd (.minit 0 1) = false ∧ ∃ t, exec (.minit 0 1) (fresh []) = .next t := ⟨by decide, by decide, rfl, rfl, _, rfl⟩

/-- An empty message has one block after padding. -/
theorem witness_MencPadsThenChains : (fresh []).keyValid = false ∧ (keyed []).modeValid = false ∧
    (ready .cbc []).keyValid = true ∧ (ready .cbc []).modeValid = true ∧ 1 = (ready .cbc []).din.length / 16 + 1 := by decide

/-- No key; no mode; a ragged length; a message whose padding is corrupt; and one that is recovered (V39, V41, in OFB, where
the recovered bytes are `DIN` combined with the engine's outputs). -/
theorem witness_MdecChainsThenUnpads : (fresh []).keyValid = false ∧ (keyed []).modeValid = false ∧
    (ready .ofb []).keyValid = true ∧ (ready .ofb []).modeValid = true ∧ (ready .ofb (bytes 15 0)).din.length % 16 ≠ 0 ∧
    (ready .ofb []).din.length = 16 * 0 ∧ unpadBytes [] = none ∧
    (ready .ofb (bytes 16 0xa02fc7b84c63fd48fcce9955cb5ee757)).din.length = 16 * 1 ∧
    unpadBytes (bytesOfBlocks (decryptChain (ready .ofb []) [block 0xa02fc7b84c63fd48fcce9955cb5ee757]).blocks) =
      some (bytes 3 0xaabbcc) := by decide

theorem witness_IvreadReturnsConstructedIv : (fresh []).modeValid = false ∧ ({ ready .ecb [] with ivValid := false }).ivValid = false ∧
    (ready .cbc []).modeValid = true ∧ (ready .cbc []).ivValid = true := by decide

/-- A core and another one that differs from it in `DIN`. -/
theorem witness_MessageRoundTrip : (ready .cbc [1]).keyValid = true ∧ (ready .cbc [1]).modeValid = true ∧
    (ready .cbc []).keyValid = true ∧ (ready .cbc []).modeValid = true ∧ (ready .cbc []).w = (ready .cbc [1]).w ∧
    (ready .cbc []).nr = (ready .cbc [1]).nr ∧ (ready .cbc []).mode = (ready .cbc [1]).mode ∧
    (ready .cbc []).iv = (ready .cbc [1]).iv := ⟨rfl, rfl, rfl, rfl, rfl, rfl, rfl, rfl⟩

/-- A message of two equal blocks (V44): offsets 0 and 1. -/
theorem witness_EcbEncryptsEqualBlocksAlike : ∃ t : State,
    (ready .ecb (bytes 32 0)).keyValid = true ∧ (ready .ecb (bytes 32 0)).modeValid = true ∧
    (ready .ecb (bytes 32 0)).mode = .ecb ∧ exec .menc (ready .ecb (bytes 32 0)) = .next t ∧
    0 ≤ (ready .ecb (bytes 32 0)).din.length / 16 ∧ 1 ≤ (ready .ecb (bytes 32 0)).din.length / 16 ∧
    ((padBytes (ready .ecb (bytes 32 0)).din).drop (16 * 0)).take 16 =
      ((padBytes (ready .ecb (bytes 32 0)).din).drop (16 * 1)).take 16 :=
  ⟨_, rfl, rfl, rfl, rfl, by decide, by decide, by decide⟩

theorem witness_CfbAndOfbAgreeOnFirstBlock : (ready .cfb []).keyValid = true ∧ (ready .cfb []).modeValid = true := by decide

theorem witness_RepeatedMencRepeatsItsResult : (ready .cbc [1]).keyValid = true ∧ (ready .cbc [1]).modeValid = true := by decide

theorem witness_WrongIvSpoilsFirstBlockOnly : (ready .cbc []).mode = .cbc ∧ (ready .cfb []).mode = .cfb ∧
    [Block.zero] ≠ [] ∧ (ready .cbc []).iv.xor (block 1) ≠ (ready .cbc []).iv ∧
    (ready .cfb []).iv.xor (block 1) ≠ (ready .cfb []).iv := by decide

/-- A command with an error that applies, the same command with none, and a word that is no command. -/
theorem witness_FirstApplicableErrorIsReported : firstError .encb (fresh []) = some .notReady ∧
    firstError .encb engineReady = none ∧
    (withPending engineReady [.issue 0x70090200]).host.pending = [.issue 0x70090200] ∧
    decode 0x70090200 = .error .ivSourceAboveOne := ⟨by decide, by decide, rfl, rfl⟩

theorem witness_CommandsWriteOnlyMarkedRegisters : (∃ t, exec .encb engineReady = .next t) ∧ writesKey .encb = false ∧
    writesMode .encb = false ∧ writesFb .encb .cbc = false ∧ drawsRnd .encb = false ∧ writesDout .keyload = false ∧
    writesState .keyload = false := ⟨⟨_, rfl⟩, by decide⟩

/-- Two states that differ in every register that `STREAD` does not read. -/
theorem witness_OutcomeDependsOnlyOnMarkedRegisters : ∃ t t' : State, AgreeOnReads .stread (fresh []) (ready .cbc [1]) ∧
    exec .stread (fresh []) = .next t ∧ exec .stread (ready .cbc [1]) = .next t' ∧ t.resp = 0x00 ∧
    writesDout .stread = true :=
  ⟨_, _, ⟨nofun, fun _ => rfl, nofun, nofun, nofun, nofun, nofun, nofun⟩, rfl, rfl, rfl, rfl⟩

/-- The drawing clause: a `MINIT` that draws, on two states with the same random source that differ elsewhere. -/
theorem witness_OutcomeDependsOnlyOnMarkedRegisters_draw : ∃ t t' : State,
    AgreeOnReads (.minit 1 1) (fresh []) (ready .cfb [1]) ∧ fresh [] ≠ ready .cfb [1] ∧
    exec (.minit 1 1) (fresh []) = .next t ∧ exec (.minit 1 1) (ready .cfb [1]) = .next t' ∧ t.resp = 0x00 ∧
    writesMode (.minit 1 1) = true ∧ writesFb (.minit 1 1) (fresh []).mode = true ∧ drawsRnd (.minit 1 1) = true :=
  ⟨_, _, ⟨nofun, nofun, nofun, nofun, nofun, nofun, nofun, fun _ => rfl⟩, by decide, rfl, rfl, rfl, rfl, rfl, rfl⟩

/-- The clauses for `STATE` and for the key registers. -/
theorem witness_OutcomeDependsOnlyOnMarkedRegisters_state_key :
    (∃ t t' : State, AgreeOnReads .subbytes (fresh []) { ready .cbc [1] with state := (fresh []).state } ∧
      exec .subbytes (fresh []) = .next t ∧
      exec .subbytes { ready .cbc [1] with state := (fresh []).state } = .next t' ∧ t.resp = 0x00 ∧
      writesState .subbytes = true) ∧
    (∃ t t' : State, AgreeOnReads .keyload (fresh (bytes 16 0)) { ready .cbc [1] with din := bytes 16 0 } ∧
      exec .keyload (fresh (bytes 16 0)) = .next t ∧
      exec .keyload { ready .cbc [1] with din := bytes 16 0 } = .next t' ∧ t.resp = 0x00 ∧ writesKey .keyload = true) :=
  ⟨⟨_, _, ⟨nofun, fun _ => rfl, nofun, nofun, nofun, nofun, nofun, nofun⟩, rfl, rfl, rfl, rfl⟩,
    ⟨_, _, ⟨fun _ => rfl, nofun, nofun, nofun, nofun, nofun, nofun, nofun⟩, rfl, rfl, rfl, rfl⟩⟩

/-- A core with a key loaded and a command pending satisfies the invariant, and its step answers a next state. -/
theorem witness_StepKeepsInvariant : (withPending engineReady [.issue 0x50000000]).Inv ∧
    ∃ t, step (withPending engineReady [.issue 0x50000000]) = .next t :=
  ⟨⟨⟨nofun, fun _ => ⟨bytes 16 0x000102030405060708090a0b0c0d0e0f, 4, 10, rfl, rfl, rfl, rfl, rfl⟩⟩,
    ⟨fun _ => rfl, ⟨nofun, fun h => absurd h.1 (by decide)⟩, fun _ => ⟨rfl, rfl⟩⟩, (by decide : (0 : Byte).toNat ≤ 9), rfl, rfl⟩, _, rfl⟩

theorem witness_OnlyResetClearsValidFlags :
    (∃ t, step (withPending (ready .cbc []) [.issue 0x50000000]) = .next t) ∧
    (∀ rest, (withPending (ready .cbc []) [.issue 0x50000000]).host.pending ≠ .reset :: rest) ∧
    (ready .cbc []).keyValid = true ∧ (ready .cbc []).modeValid = true := ⟨⟨_, rfl⟩, nofun, rfl, rfl⟩

end Sys2Proof.Tests
end

section
/-! What a command answers, said once for all thirty: the first error that applies, or the commit of the command's writes
(60_exceptions.md R226, R228). The statements about all commands at once are derived from it. -/

namespace Sys2Proof.Machine

/-! ### The answer of a command -/

/-- What `KEYLOAD` commits: the schedule and the parameters of the key in `DIN` (R123); no key, no change. -/
def keyCommit (s : State) : State :=
  (keyParams s.din.length).elim s fun p =>
    s.setKey (scheduleRegister (expandKey p.1 p.2 s.din)) (BitVec.ofNat 8 s.din.length) (BitVec.ofNat 8 p.1)
      (BitVec.ofNat 8 p.2)

/-- What a block command commits: the engine's output on the block in `DIN` (R168). -/
def engineCommit (s : State) (engine : Block → Block) : State :=
  (s.setState (engine (blockOfBytes s.din))).setDout (blockBytes (engine (blockOfBytes s.din)))

/-- What `MINIT a, b` commits (R191); a number that is no mode's makes no change. -/
def modeCommit (a b : Byte) (s : State) : State :=
  match modeOfOperand a with
  | none => s
  | some .ecb => s.setMode .ecb Block.zero false
  | some mode =>
    if b = 0 then s.setMode mode (blockOfBytes s.din) true
    else (s.setMode mode (nextRnd s.rng) true).setRng (afterDraw s.rng)

/-- The writes that a command commits where no error applies to it, before `RESP <- 0x00`. -/
def committed (s : State) : Instr → State
  | .stat => s.setDout (statusBytes s)
  | .mul2 a => s.setDout [mul2 a]
  | .gfmul a b => s.setDout [gmul a b]
  | .sbox a => s.setDout [sboxTable a]
  | .isbox a => s.setDout [invSboxTable a]
  | .keyload => keyCommit s
  | .kwread a => s.setDout (wordBytes (wordAt s.w a.toNat))
  | .rkread a => s.setDout (blockBytes (roundKey s.w a.toNat))
  | .stload => s.setState (blockOfBytes s.din)
  | .stread => s.setDout (blockBytes s.state)
  | .subbytes => s.setState (subBytes s.state)
  | .shiftrows => s.setState (shiftRows s.state)
  | .mixcols => s.setState (mixColumns s.state)
  | .addrk a => s.setState (addRoundKey s.state (roundKey s.w a.toNat))
  | .isubbytes => s.setState (invSubBytes s.state)
  | .ishiftrows => s.setState (invShiftRows s.state)
  | .imixcols => s.setState (invMixColumns s.state)
  | .fround a => s.setState (fRound s.state (roundKey s.w a.toNat))
  | .ffinal a => s.setState (fFinal s.state (roundKey s.w a.toNat))
  | .iround a => s.setState (iRound s.state (roundKey s.w a.toNat))
  | .ifinal a => s.setState (iFinal s.state (roundKey s.w a.toNat))
  | .encb => engineCommit s (encrypt s.w s.nr.toNat)
  | .decb => engineCommit s (decrypt s.w s.nr.toNat)
  | .pencb a => engineCommit s (partialEncrypt s.w s.nr.toNat a.toNat)
  | .pad => s.setDout (padBytes s.din)
  | .unpad => s.setDout ((unpadBytes s.din).getD [])
  | .minit a b => modeCommit a b s
  | .menc => commitMessage s (encryptChain s (blocksOf (padBytes s.din)))
      (bytesOfBlocks (encryptChain s (blocksOf (padBytes s.din))).blocks)
  | .mdec => commitMessage s (decryptChain s (blocksOf s.din))
      ((unpadBytes (bytesOfBlocks (decryptChain s (blocksOf s.din)).blocks)).getD [])
  | .ivread => s.setDout (blockBytes s.iv)

/-- The answer where the errors `es` are tested in order: the first that applies, or else the commit of `r` (R226). -/
def answerBy (s r : State) (applies : Error → Bool) : List Error → Result
  | [] => complete r
  | e :: es => if applies e = true then raiseError e s else answerBy s r applies es

/-- The answer of the command `i` that commits `r` where none of its errors applies. -/
def answer (i : Instr) (s r : State) : Result := answerBy s r (errorApplies i s) (errorsOf i)

theorem answerBy_eq_find (s r : State) (applies : Error → Bool) (es : List Error) :
    answerBy s r applies es = (es.find? applies).elim (complete r) (raiseError · s) := by
  induction es with
  | nil => rfl
  | cons e es ih => cases h : applies e <;> simp [answerBy, h, ih]

/-- The command answers by the first of its errors that applies. -/
theorem answer_eq_firstError (i : Instr) (s r : State) :
    answer i s r = (firstError i s).elim (complete r) (raiseError · s) := answerBy_eq_find _ _ _ _

/-- The seven commands with a round-key index answer by their two errors, `NotReady` and `OperandRange`. -/
theorem transformWithRoundKey_eq_answer (i : Instr) (a : Byte) (f : Block → Block → Block) (s : State)
    (he : errorsOf i = [.notReady, .operandRange]) (hn : needsMissing i s = !s.keyValid)
    (hb : indexBeyond i s = decide (s.nr.toNat < a.toNat)) :
    transformWithRoundKey s a f = answer i s (s.setState (f s.state (roundKey s.w a.toNat))) := by
  simp [transformWithRoundKey, answer, answerBy, he, errorApplies, hn, hb, keyReady, roundIndexOk]

/-- The three block commands answer by their two errors, `NotReady` and `InvalidBlockLength`. -/
theorem runEngine_eq_answer (i : Instr) (engine : Block → Block) (s : State)
    (he : errorsOf i = [.notReady, .invalidBlockLength]) (hn : needsMissing i s = !s.keyValid) :
    runEngine s engine = answer i s (engineCommit s engine) := by
  by_cases h : s.din.length = 16 <;>
    simp [runEngine, answer, answerBy, he, errorApplies, hn, keyReady, dinBlock, engineCommit, h]

theorem execKeyload_eq_answer (s : State) : execKeyload s = answer .keyload s (keyCommit s) := by
  by_cases h16 : s.din.length = 16
  · simp [execKeyload, answer, answerBy, errorsOf, errorApplies, keyParams, keyCommit, h16]
  by_cases h24 : s.din.length = 24
  · simp [execKeyload, answer, answerBy, errorsOf, errorApplies, keyParams, keyCommit, h24]
  by_cases h32 : s.din.length = 32
  · simp [execKeyload, answer, answerBy, errorsOf, errorApplies, keyParams, keyCommit, h32]
  · simp [execKeyload, answer, answerBy, errorsOf, errorApplies, keyParams, h16, h24, h32]

theorem execStload_eq_answer (s : State) :
    execStload s = answer .stload s (s.setState (blockOfBytes s.din)) := by
  by_cases h : s.din.length = 16 <;> simp [execStload, answer, answerBy, errorsOf, errorApplies, dinBlock, h]

theorem execUnpad_eq_answer (s : State) :
    execUnpad s = answer .unpad s (s.setDout ((unpadBytes s.din).getD [])) := by
  cases h : unpadBytes s.din <;> simp [execUnpad, answer, answerBy, errorsOf, errorApplies, paddedInput, h]

theorem execMinit_eq_answer (a b : Byte) (s : State) :
    execMinit a b s = answer (.minit a b) s (modeCommit a b s) := by
  obtain ⟨rfl, hm⟩ | ⟨rfl, hm⟩ | ⟨rfl, hm⟩ | ⟨rfl, hm⟩ | ⟨ha, hm⟩ := modeOfOperand_cases a
  case inr.inr.inr.inr => simp [execMinit, answer, answerBy, errorsOf, errorApplies, modeUnsupported, hm, ha]
  all_goals
    by_cases hb : b = 0#8 <;> by_cases h : s.din.length = 16 <;>
      simp [execMinit, answer, answerBy, errorsOf, errorApplies, modeUnsupported, takesIvFromDin, modeCommit, ivFromDin,
        dinBlock, modeOfOperand, hb, h]

theorem execMdec_eq_answer (s : State) :
    execMdec s = answer .mdec s (committed s .mdec) := by
  cases h : unpadBytes (bytesOfBlocks (decryptChain s (blocksOf s.din)).blocks) <;>
    simp [execMdec, answer, answerBy, errorsOf, errorApplies, needsMissing, paddedInput, messageReady, committed, h,
      imp_iff_not_or]

/-- R226, R228: every command answers by the first error that applies to it. -/
theorem exec_eq_answer (i : Instr) (s : State) : exec i s = answer i s (committed s i) := by
  cases i with
  | stat | mul2 | gfmul | sbox | isbox | stread | subbytes | shiftrows | mixcols | isubbytes | ishiftrows | imixcols
  | pad => rfl
  | addrk | fround | ffinal | iround | ifinal => exact transformWithRoundKey_eq_answer _ _ _ s rfl rfl rfl
  | encb | decb | pencb => exact runEngine_eq_answer _ _ s rfl rfl
  | keyload => exact execKeyload_eq_answer s
  | stload => exact execStload_eq_answer s
  | unpad => exact execUnpad_eq_answer s
  | minit a b => exact execMinit_eq_answer a b s
  | mdec => exact execMdec_eq_answer s
  | kwread => simp [exec, execKwread, answer, answerBy, errorsOf, errorApplies, needsMissing, indexBeyond, keyReady,
      wordIndexOk, committed]
  | rkread => simp [exec, execRkread, answer, answerBy, errorsOf, errorApplies, needsMissing, indexBeyond, keyReady,
      roundIndexOk, committed]
  | menc => simp [exec, execMenc, answer, answerBy, errorsOf, errorApplies, needsMissing, messageReady, committed,
      imp_iff_not_or]
  | ivread => simp [exec, execIvread, answer, answerBy, errorsOf, errorApplies, needsMissing, ivReady, committed,
      imp_iff_not_or]

/-- What a command that answers a next state has done: it was rejected with its first error, or it has committed. -/
theorem exec_cases {i : Instr} {s t : State} (h : exec i s = .next t) :
    (∃ e, firstError i s = some e ∧ t = s.setResp e.code) ∨
    (firstError i s = none ∧ t = (committed s i).setResp 0x00) := by
  rw [exec_eq_answer, answer_eq_firstError] at h
  cases hf : firstError i s with
  | some e =>
    rw [hf] at h
    cases h
    exact .inl ⟨e, rfl, rfl⟩
  | none =>
    rw [hf] at h
    cases h
    exact .inr ⟨rfl, rfl⟩

end Sys2Proof.Machine
end

section
/-! What a command writes (10_state.md R38, 47_system.md R216), and the invariant of the machine (10_state.md R37), which
every step keeps. -/

namespace Sys2Proof.Machine

/-! ### The access table: what a command writes (R38) -/

/-- `t` agrees with `s` on all that the access table does not mark "w" for the command `i`. -/
def WritesOnlyMarked (i : Instr) (s t : State) : Prop :=
  t.din = s.din ∧ t.host = s.host ∧ t.bufcap = s.bufcap ∧
    (writesDout i = false → t.dout = s.dout) ∧ (writesState i = false → t.state = s.state) ∧
    (writesKey i = false → t.w = s.w ∧ t.keyValid = s.keyValid ∧ t.klen = s.klen ∧ t.nk = s.nk ∧ t.nr = s.nr) ∧
    (writesMode i = false → t.mode = s.mode ∧ t.modeValid = s.modeValid ∧ t.iv = s.iv ∧ t.ivValid = s.ivValid) ∧
    (writesFb i s.mode = false → t.fb = s.fb) ∧ (drawsRnd i = false → t.rng = s.rng)

theorem WritesOnlyMarked.refl (i : Instr) (s : State) : WritesOnlyMarked i s s := by simp [WritesOnlyMarked]

/-- `RESP` stands outside the table's columns: every command writes it. -/
theorem WritesOnlyMarked.setResp {i : Instr} {s t : State} (h : WritesOnlyMarked i s t) (v : Byte) :
    WritesOnlyMarked i s (t.setResp v) := h

theorem WritesOnlyMarked.setDout {i : Instr} (s : State) (v : List Byte) (hi : writesDout i = true) :
    WritesOnlyMarked i s (s.setDout v) := by simp [WritesOnlyMarked, hi]

theorem WritesOnlyMarked.setState {i : Instr} (s : State) (v : Block) (hi : writesState i = true) :
    WritesOnlyMarked i s (s.setState v) := by simp [WritesOnlyMarked, hi]

theorem WritesOnlyMarked.engineCommit {i : Instr} (s : State) (engine : Block → Block) (hd : writesDout i = true)
    (hs : writesState i = true) : WritesOnlyMarked i s (engineCommit s engine) := by
  simp [WritesOnlyMarked, Machine.engineCommit, hd, hs]

theorem WritesOnlyMarked.commitMessage {i : Instr} (s : State) (r : ChainRun) (out : List Byte)
    (hi : isMessageCommand i = true) (hd : writesDout i = true) (hs : writesState i = true) :
    WritesOnlyMarked i s (commitMessage s r out) := by
  simp +contextual [WritesOnlyMarked, Machine.commitMessage, writesFb, hi, hd, hs]

theorem keyCommit_writesOnlyMarked (s : State) : WritesOnlyMarked .keyload s (keyCommit s) := by
  cases h : keyParams s.din.length <;> simp [WritesOnlyMarked, keyCommit, h, writesKey]

theorem modeCommit_writesOnlyMarked (a b : Byte) (s : State) :
    WritesOnlyMarked (.minit a b) s (modeCommit a b s) := by
  obtain ⟨rfl, hm⟩ | ⟨rfl, hm⟩ | ⟨rfl, hm⟩ | ⟨rfl, hm⟩ | ⟨ha, hm⟩ := modeOfOperand_cases a
  case inr.inr.inr.inr => simp [modeCommit, hm, WritesOnlyMarked.refl]
  all_goals
    by_cases hb : b = 0#8 <;>
      simp [WritesOnlyMarked, modeCommit, modeOfOperand, hb, writesMode, writesFb, drawsRnd]

theorem committed_writesOnlyMarked (i : Instr) (s : State) : WritesOnlyMarked i s (committed s i) := by
  cases i with
  | stat | mul2 | gfmul | sbox | isbox | kwread | rkread | stread | pad | unpad | ivread => exact .setDout _ _ rfl
  | stload | subbytes | shiftrows | mixcols | addrk | isubbytes | ishiftrows | imixcols | fround | ffinal | iround
  | ifinal => exact .setState _ _ rfl
  | encb | decb | pencb => exact .engineCommit _ _ rfl rfl
  | menc | mdec => exact .commitMessage _ _ _ rfl rfl rfl
  | keyload => exact keyCommit_writesOnlyMarked s
  | minit a b => exact modeCommit_writesOnlyMarked a b s

theorem exec_writesOnlyMarked {i : Instr} {s t : State} (h : exec i s = .next t) : WritesOnlyMarked i s t := by
  obtain ⟨e, -, rfl⟩ | ⟨-, rfl⟩ := exec_cases h
  · exact (WritesOnlyMarked.refl i s).setResp e.code
  · exact (committed_writesOnlyMarked i s).setResp 0x00

/-- Settles O56: a rejection writes `RESP` alone, and what a command commits is marked "w" for it. -/
theorem commandsWriteOnlyMarkedRegisters : Obligations.CommandsWriteOnlyMarkedRegisters :=
  fun _ _ _ h => exec_writesOnlyMarked h

/-! ### The invariant (R37) -/

theorem reset_keyInv : State.reset.KeyInv := ⟨fun _ => ⟨rfl, rfl, rfl, rfl⟩, nofun⟩

theorem reset_modeInv : State.reset.ModeInv := ⟨fun _ => rfl, ⟨nofun, fun h => nomatch h.1⟩, fun _ => ⟨rfl, rfl⟩⟩

theorem reset_respInv : State.reset.RespInv := Nat.zero_le 9

@[simp] theorem fitsCapacity_zero (bufcap : Option Nat) : fitsCapacity bufcap 0 = true := by
  cases bufcap <;> simp [fitsCapacity]

/-- Settles O58: no key, no mode and no IV, `RESP` zero, and empty buffers, which fit any capacity. -/
theorem resetSatisfiesInvariant : Obligations.ResetSatisfiesInvariant :=
  ⟨reset_keyInv, reset_modeInv, reset_respInv, fitsCapacity_zero _, fitsCapacity_zero _⟩

/-- The key registers written by `KEYLOAD` are those of the key in `DIN`. -/
theorem keyCommit_keyInv {s : State} (h : s.KeyInv) : (keyCommit s).KeyInv := by
  cases hp : keyParams s.din.length with
  | none => simpa [keyCommit, hp] using h
  | some p =>
    simp only [keyCommit, hp, Option.elim_some]
    exact ⟨nofun, fun _ => ⟨s.din, p.1, p.2, hp, rfl, rfl, rfl, rfl⟩⟩

theorem committed_keyInv {i : Instr} {s : State} (h : s.KeyInv) : (committed s i).KeyInv := by
  by_cases hi : writesKey i = true
  · obtain rfl : i = .keyload := of_decide_eq_true hi
    exact keyCommit_keyInv h
  · obtain ⟨-, -, -, -, -, hkey, -⟩ := committed_writesOnlyMarked i s
    obtain ⟨hw, hv, hl, hk, hr⟩ := hkey (by simpa using hi)
    simpa only [State.KeyInv, hw, hv, hl, hk, hr] using h

theorem modeCommit_modeInv {s : State} (a b : Byte) (h : s.ModeInv) : (modeCommit a b s).ModeInv := by
  obtain ⟨rfl, hm⟩ | ⟨rfl, hm⟩ | ⟨rfl, hm⟩ | ⟨rfl, hm⟩ | ⟨ha, hm⟩ := modeOfOperand_cases a
  case inr.inr.inr.inr => simpa [modeCommit, hm] using h
  all_goals by_cases hb : b = 0#8 <;> simp [State.ModeInv, modeCommit, modeOfOperand, hb]

/-- Without an IV in use the mode is ECB, and there no command but `MINIT` writes `FB`. -/
theorem committed_modeInv {i : Instr} {s : State} (h : s.ModeInv) : (committed s i).ModeInv := by
  by_cases hi : writesMode i = true
  · cases i with
    | minit a b => exact modeCommit_modeInv a b h
    | _ => cases hi
  · obtain ⟨-, -, -, -, -, -, hmode, hfb, -⟩ := committed_writesOnlyMarked i s
    obtain ⟨hm, hv, hiv, hivv⟩ := hmode (by simpa using hi)
    obtain ⟨hecb, hvalid, hzero⟩ := h
    refine ⟨by rw [hm, hv]; exact hecb, by rw [hm, hv, hivv]; exact hvalid, fun hf => ?_⟩
    rw [hivv] at hf
    have hms : s.mode = .ecb := by
      by_contra hne
      have hmv : s.modeValid = true := by by_contra hv'; exact hne (hecb (by simpa using hv'))
      exact absurd (hvalid.mpr ⟨hmv, hne⟩) (by simp [hf])
    have hfb' := hfb (by simp [writesFb, hi, hms])
    rw [hiv, hfb']
    exact hzero hf

/-- What a command answers keeps the registers' agreement; that `DOUT` fits is the capacity check around it. -/
theorem exec_keeps_inv {i : Instr} {s t : State} (hs : s.Inv) (h : exec i s = .next t)
    (hfit : fitsCapacity t.bufcap t.dout.length = true) : t.Inv := by
  obtain ⟨hkey, hmode, -, hdin, -⟩ := hs
  obtain ⟨tdin, -, tcap, -⟩ := exec_writesOnlyMarked h
  have hbuf : t.BufferInv := ⟨by rw [tdin, tcap]; exact hdin, hfit⟩
  obtain ⟨e, -, rfl⟩ | ⟨-, rfl⟩ := exec_cases h
  · exact ⟨hkey, hmode, e.code_le, hbuf⟩
  · exact ⟨committed_keyInv hkey, committed_modeInv hmode, Nat.zero_le 9, hbuf⟩

theorem hostIssue_keeps_inv {cmd : CmdWord} {s t : State} (hs : s.Inv) (h : hostIssue cmd s = .next t) : t.Inv := by
  obtain ⟨e, -, hr⟩ | ⟨i, -, hi⟩ := hostIssue_cases cmd s
  · obtain ⟨hkey, hmode, -, hbuf⟩ := hs
    cases hr.symm.trans h
    exact ⟨hkey, hmode, Error.illegalCommand.code_le, hbuf⟩
  · obtain ⟨hx, hfit⟩ := (withinCapacity_next _ _).mp (hi.symm.trans h)
    exact exec_keeps_inv hs hx hfit

theorem hostReset_keeps_inv {s t : State} (h : hostReset s = .next t) : t.Inv := by
  cases h
  exact ⟨reset_keyInv, reset_modeInv, reset_respInv, fitsCapacity_zero _, fitsCapacity_zero _⟩

theorem hostWriteDin_keeps_inv {x : List Byte} {s t : State} (hs : s.Inv) (h : hostWriteDin x s = .next t) :
    t.Inv := by
  obtain ⟨hkey, hmode, hresp, -, hdout⟩ := hs
  unfold hostWriteDin at h
  split at h
  case isTrue hfit => cases h; exact ⟨hkey, hmode, hresp, hfit, hdout⟩
  case isFalse => cases h

theorem hostAct_keeps_inv {action : HostAction} {s t : State} (hs : s.Inv) (h : hostAct action s = .next t) :
    t.Inv := by
  cases action with
  | reset => exact hostReset_keeps_inv h
  | writeDin x => exact hostWriteDin_keeps_inv hs h
  | issue cmd => exact hostIssue_keeps_inv hs h
  | readResp | readDout | supplyRnd => cases h; exact hs

/-- A step is idle, or it is the next pending action on the state without that action. -/
theorem step_cases (s : State) :
    (s.host.pending = [] ∧ step s = .next s) ∨
    (∃ action rest, s.host.pending = action :: rest ∧
      step s = hostAct action (s.setHost ⟨rest, s.host.readings⟩)) := by
  cases hp : s.host.pending with
  | nil => exact .inl ⟨rfl, by simp [step, hostStep, hp]⟩
  | cons action rest => exact .inr ⟨action, rest, rfl, by simp [step, hostStep, hp]⟩

/-- Settles O59: the invariant does not speak of the host's side, and each host action keeps it. -/
theorem stepKeepsInvariant : Obligations.StepKeepsInvariant := by
  intro s t hs h
  obtain ⟨-, hidle⟩ | ⟨action, rest, -, hact⟩ := step_cases s
  · cases hidle.symm.trans h
    exact hs
  · have hs' : (s.setHost ⟨rest, s.host.readings⟩).Inv := hs
    exact hostAct_keeps_inv hs' (hact.symm.trans h)

end Sys2Proof.Machine
end

section
/-! What a command's outcome depends on (10_state.md R38), and the values after reset (R42). -/

namespace Sys2Proof.Machine

/-! ### The access table: what a command reads (R38) -/

/-- The two states agree on all that the access table marks "w" for the command `i`, run in mode `mode`. -/
def AgreeOnWrites (i : Instr) (mode : Mode) (t t' : State) : Prop :=
  (writesDout i = true → t.dout = t'.dout) ∧ (writesState i = true → t.state = t'.state) ∧
    (writesKey i = true → t.w = t'.w ∧ t.keyValid = t'.keyValid ∧ t.klen = t'.klen ∧ t.nk = t'.nk ∧ t.nr = t'.nr) ∧
    (writesMode i = true → t.mode = t'.mode ∧ t.modeValid = t'.modeValid ∧ t.iv = t'.iv ∧ t.ivValid = t'.ivValid) ∧
    (writesFb i mode = true → t.fb = t'.fb) ∧ (drawsRnd i = true → t.rng = t'.rng)

/-- Two chains from the same mode, `IV` and key give the same blocks and feedback, and, where there is a block, the same
engine output: `STATE` and `FB` are no inputs (R33, R172). -/
theorem encryptChain_congr {s s' : State} (hw : s.w = s'.w) (hnr : s.nr = s'.nr) (hmode : s.mode = s'.mode)
    (hiv : s.iv = s'.iv) (ps : List Block) :
    (encryptChain s ps).blocks = (encryptChain s' ps).blocks ∧
      (encryptChain s ps).feedback = (encryptChain s' ps).feedback ∧
      (ps ≠ [] → (encryptChain s ps).engine = (encryptChain s' ps).engine) := by
  simp only [encryptChain, hw, hnr, hmode, hiv]
  exact chainBlocks_engine_irrelevant _ _ _ _ _

theorem decryptChain_congr {s s' : State} (hw : s.w = s'.w) (hnr : s.nr = s'.nr) (hmode : s.mode = s'.mode)
    (hiv : s.iv = s'.iv) (cs : List Block) :
    (decryptChain s cs).blocks = (decryptChain s' cs).blocks ∧
      (decryptChain s cs).feedback = (decryptChain s' cs).feedback ∧
      (cs ≠ [] → (decryptChain s cs).engine = (decryptChain s' cs).engine) := by
  simp only [decryptChain, hw, hnr, hmode, hiv]
  exact chainBlocks_engine_irrelevant _ _ _ _ _

/-- Padding leaves at least one block (R180). -/
theorem blocksOf_padBytes_ne_nil (x : List Byte) : blocksOf (padBytes x) ≠ [] := by
  intro h
  have hlen := congrArg List.length h
  simp [blocksOf, padBytes_length] at hlen

/-- Where `MDEC` is not rejected there is at least one block: nothing has no padding (R181). -/
theorem blocksOf_ne_nil_of_mdec {s : State} (h : firstError .mdec s = none) : blocksOf s.din ≠ [] := by
  intro hnil
  have hpad : errorApplies .mdec s .paddingError = false := by
    simpa using List.find?_eq_none.mp h .paddingError (by simp [errorsOf])
  simp [errorApplies, paddedInput, hnil, decryptChain, unpadBytes] at hpad

section
variable {i : Instr} {s s' : State}

theorem needsMissing_congr (h : AgreeOnReads i s s') : needsMissing i s = needsMissing i s' := by
  obtain ⟨-, -, -, hkey, hmode, -, hivv, -⟩ := h
  cases i with
  | kwread | rkread | addrk | fround | ffinal | iround | ifinal | encb | decb | pencb =>
    simp [needsMissing, (hkey rfl).1]
  | menc | mdec => simp [needsMissing, (hkey rfl).1, (hmode rfl).2]
  | ivread => simp [needsMissing, (hmode rfl).2, hivv rfl]
  | _ => rfl

theorem indexBeyond_congr (h : AgreeOnReads i s s') : indexBeyond i s = indexBeyond i s' := by
  obtain ⟨-, -, -, hkey, -⟩ := h
  cases i with
  | kwread | rkread | addrk | fround | ffinal | iround | ifinal =>
    obtain ⟨-, -, -, hnr⟩ := hkey rfl
    simp [indexBeyond, hnr]
  | _ => rfl

theorem paddedInput_congr (h : AgreeOnReads i s s') (hi : Error.paddingError ∈ errorsOf i) :
    paddedInput i s = paddedInput i s' := by
  obtain ⟨hdin, -, hw, hkey, hmode, hiv, -⟩ := h
  cases i with
  | unpad => exact hdin rfl
  | mdec =>
    obtain ⟨-, -, -, hnr⟩ := hkey rfl
    simp only [paddedInput, hdin rfl, (decryptChain_congr (hw rfl) hnr (hmode rfl).1 (hiv rfl) _).1]
  | _ => simp [errorsOf] at hi

/-- A command whose input can have a wrong length reads `DIN`. -/
theorem readsDin_of_length_error (hi : Error.invalidKeyLength ∈ errorsOf i ∨ Error.invalidBlockLength ∈ errorsOf i ∨
    Error.invalidCiphertextLength ∈ errorsOf i) : readsDin i = true := by
  cases i with
  | keyload | stload | encb | decb | pencb | mdec => rfl
  | _ => simp [errorsOf] at hi

theorem readsDin_of_takesIvFromDin (hi : takesIvFromDin i = true) : readsDin i = true := by
  cases i with
  | minit => exact hi
  | _ => cases hi

/-- Which of a command's errors apply depends on the registers marked "r" alone. -/
theorem errorApplies_congr (h : AgreeOnReads i s s') {e : Error} (he : e ∈ errorsOf i) :
    errorApplies i s e = errorApplies i s' e := by
  have hdin := h.1
  cases e with
  | notReady => exact needsMissing_congr h
  | operandRange => exact indexBeyond_congr h
  | unsupportedMode | illegalCommand => rfl
  | invalidKeyLength => simp [errorApplies, hdin (readsDin_of_length_error (.inl he))]
  | invalidBlockLength => simp [errorApplies, hdin (readsDin_of_length_error (.inr (.inl he)))]
  | invalidCiphertextLength => simp [errorApplies, hdin (readsDin_of_length_error (.inr (.inr he)))]
  | invalidIVLength =>
    cases hi : takesIvFromDin i with
    | false => simp [errorApplies, hi]
    | true => simp [errorApplies, hi, hdin (readsDin_of_takesIvFromDin hi)]
  | paddingError => simp only [errorApplies, paddedInput_congr h he]

theorem firstError_congr (h : AgreeOnReads i s s') : firstError i s = firstError i s' :=
  List.find?_congr fun _ he => errorApplies_congr h he

theorem committed_dout_congr (h : AgreeOnReads i s s') (hi : writesDout i = true) :
    (committed s i).dout = (committed s' i).dout := by
  obtain ⟨hdin, hstate, hw, hkey, hmode, hiv, hivv, -⟩ := h
  cases i with
  | mul2 | gfmul | sbox | isbox => rfl
  | stat => simp [committed, statusBytes, hkey rfl, hmode rfl, hivv rfl]
  | kwread | rkread => simp [committed, hw rfl]
  | stread => simp [committed, hstate rfl]
  | pad | unpad => simp [committed, hdin rfl]
  | ivread => simp [committed, hiv rfl]
  | encb | decb | pencb => simp [committed, engineCommit, hdin rfl, hw rfl, hkey rfl]
  | menc =>
    obtain ⟨-, -, -, hnr⟩ := hkey rfl
    simp [committed, commitMessage, hdin rfl, encryptChain_congr (hw rfl) hnr (hmode rfl).1 (hiv rfl)]
  | mdec =>
    obtain ⟨-, -, -, hnr⟩ := hkey rfl
    simp [committed, commitMessage, hdin rfl, decryptChain_congr (hw rfl) hnr (hmode rfl).1 (hiv rfl)]
  | _ => cases hi

theorem committed_state_congr (h : AgreeOnReads i s s') (hok : firstError i s = none) (hi : writesState i = true) :
    (committed s i).state = (committed s' i).state := by
  obtain ⟨hdin, hstate, hw, hkey, hmode, hiv, -⟩ := h
  cases i with
  | stload => simp [committed, hdin rfl]
  | subbytes | shiftrows | mixcols | isubbytes | ishiftrows | imixcols => simp [committed, hstate rfl]
  | addrk | fround | ffinal | iround | ifinal => simp [committed, hstate rfl, hw rfl]
  | encb | decb | pencb => simp [committed, engineCommit, hdin rfl, hw rfl, hkey rfl]
  | menc =>
    obtain ⟨-, -, -, hnr⟩ := hkey rfl
    have hne := blocksOf_padBytes_ne_nil s'.din
    simp [committed, commitMessage, hdin rfl, encryptChain_congr (hw rfl) hnr (hmode rfl).1 (hiv rfl), hne]
  | mdec =>
    obtain ⟨-, -, -, hnr⟩ := hkey rfl
    have hne := blocksOf_ne_nil_of_mdec hok
    rw [hdin rfl] at hne
    simp [committed, commitMessage, hdin rfl, decryptChain_congr (hw rfl) hnr (hmode rfl).1 (hiv rfl), hne]
  | _ => cases hi

theorem committed_key_congr (h : AgreeOnReads .keyload s s') (hok : firstError .keyload s = none) :
    (committed s .keyload).w = (committed s' .keyload).w ∧
      (committed s .keyload).keyValid = (committed s' .keyload).keyValid ∧
      (committed s .keyload).klen = (committed s' .keyload).klen ∧
      (committed s .keyload).nk = (committed s' .keyload).nk ∧
      (committed s .keyload).nr = (committed s' .keyload).nr := by
  have hdin : s.din = s'.din := h.1 rfl
  have hlen : ¬(s.din.length ≠ 16 ∧ s.din.length ≠ 24 ∧ s.din.length ≠ 32) := by
    simpa [errorApplies] using List.find?_eq_none.mp hok .invalidKeyLength (by simp [errorsOf])
  have hp : ∃ p, keyParams s'.din.length = some p := by
    rw [hdin] at hlen
    unfold keyParams
    split_ifs
    case neg h16 h24 h32 => exact absurd ⟨h16, h24, h32⟩ hlen
    all_goals exact ⟨_, rfl⟩
  obtain ⟨p, hp⟩ := hp
  simp [committed, keyCommit, hdin, hp]

/-- What `MINIT` commits is fixed by its operands and, by the IV source, by `DIN` or the random source. -/
theorem committed_minit_congr {a b : Byte} (h : AgreeOnReads (.minit a b) s s')
    (hok : firstError (.minit a b) s = none) :
    AgreeOnWrites (.minit a b) s.mode (committed s (.minit a b)) (committed s' (.minit a b)) := by
  obtain ⟨hdin, -, -, -, -, -, -, hrng⟩ := h
  have ha : modeUnsupported (.minit a b) = false := by
    simpa [errorApplies] using List.find?_eq_none.mp hok .unsupportedMode (by simp [errorsOf])
  obtain ⟨rfl, hm⟩ | ⟨rfl, hm⟩ | ⟨rfl, hm⟩ | ⟨rfl, hm⟩ | ⟨ha', hm⟩ := modeOfOperand_cases a
  case inr.inr.inr.inr => simp [modeUnsupported, Nat.not_le.mpr ha'] at ha
  case inl => simp [AgreeOnWrites, committed, modeCommit, modeOfOperand, writesDout, writesState, writesKey, drawsRnd]
  all_goals
    by_cases hb : b = 0#8
    · have hd := hdin (by simp [readsDin, takesIvFromDin, hb])
      simp [AgreeOnWrites, committed, modeCommit, modeOfOperand, hb, hd, writesDout, writesState, writesKey, drawsRnd]
    · have hr := hrng (by simp [drawsRnd, hb])
      simp [AgreeOnWrites, committed, modeCommit, modeOfOperand, hb, hr, writesDout, writesState, writesKey]

/-- In a feedback mode the last feedback value of the chain is committed. -/
theorem committed_fb_congr (h : AgreeOnReads i s s') (hi : isMessageCommand i = true) (hmode : s.mode ≠ .ecb) :
    (committed s i).fb = (committed s' i).fb := by
  obtain ⟨hdin, -, hw, hkey, hm, hiv, -⟩ := h
  cases i with
  | menc =>
    obtain ⟨-, -, -, hnr⟩ := hkey rfl
    obtain ⟨-, hfb, -⟩ := encryptChain_congr (hw rfl) hnr (hm rfl).1 (hiv rfl) (blocksOf (padBytes s'.din))
    simp [committed, commitMessage, ← (hm rfl).1, hmode, hdin rfl, hfb]
  | mdec =>
    obtain ⟨-, -, -, hnr⟩ := hkey rfl
    obtain ⟨-, hfb, -⟩ := decryptChain_congr (hw rfl) hnr (hm rfl).1 (hiv rfl) (blocksOf s'.din)
    simp [committed, commitMessage, ← (hm rfl).1, hmode, hdin rfl, hfb]
  | _ => simp [isMessageCommand] at hi

/-- What a command commits, of all that is marked "w", depends on what is marked "r" alone. -/
theorem committed_agreeOnWrites (h : AgreeOnReads i s s') (hok : firstError i s = none) :
    AgreeOnWrites i s.mode (committed s i) (committed s' i) := by
  by_cases hm : writesMode i = true
  · cases i with
    | minit a b => exact committed_minit_congr h hok
    | _ => cases hm
  · refine ⟨committed_dout_congr h, committed_state_congr h hok, fun hk => ?_, fun hm' => absurd hm' hm, fun hf => ?_,
      fun hr => ?_⟩
    · obtain rfl : i = .keyload := of_decide_eq_true hk
      exact committed_key_congr h hok
    · obtain ⟨hmsg, hne⟩ : isMessageCommand i = true ∧ s.mode ≠ .ecb := by simpa [writesFb, hm] using hf
      exact committed_fb_congr h hmsg hne
    · cases i with
      | minit => exact absurd rfl hm
      | _ => cases hr

end

/-- Settles O57: the two runs have the same first error; without one, what they commit depends on the marked
registers alone. -/
theorem outcomeDependsOnlyOnMarkedRegisters : Obligations.OutcomeDependsOnlyOnMarkedRegisters := by
  intro i s s' t t' hagree h h'
  have hfirst := firstError_congr hagree
  obtain ⟨e, he, rfl⟩ | ⟨hnone, rfl⟩ := exec_cases h <;> obtain ⟨e', he', rfl⟩ | ⟨hnone', rfl⟩ := exec_cases h'
  · obtain rfl : e = e' := Option.some.inj (by rw [← he, hfirst, he'])
    exact ⟨rfl, fun hz => absurd hz e.code_ne_zero⟩
  · rw [hfirst, hnone'] at he; cases he
  · rw [← hfirst, hnone] at he'; cases he'
  · exact ⟨rfl, fun _ => committed_agreeOnWrites hagree hnone⟩

/-- Settles O1: the registers are literals of `State.reset`; the six stage commands write `STATE` alone. -/
theorem resetValuesAreThoseOfTheTable : Obligations.ResetValuesAreThoseOfTheTable := by
  refine ⟨rfl, fun i hi => ?_, rfl, rfl, rfl, rfl, rfl, rfl, rfl, rfl, rfl, rfl, rfl, rfl, rfl, ?_⟩
  · simp [wordAt, State.reset, hi, wordBytes, Word.zero]
  · simp only [List.forall_mem_cons]
    exact ⟨rfl, rfl, rfl, rfl, rfl, rfl, nofun⟩

end Sys2Proof.Machine
end

section
/-! What the host's write of `DIN` and its reads do (20_memory.md R52, R53). -/

namespace Sys2Proof.Machine

/-- A step with an action pending is that action, on the state from whose list it is taken. -/
theorem step_of_pending {s : State} {action : HostAction} {rest : List HostAction}
    (h : s.host.pending = action :: rest) : step s = hostAct action (s.setHost ⟨rest, s.host.readings⟩) := by
  obtain ⟨hnil, -⟩ | ⟨action', rest', hcons, hstep⟩ := step_cases s
  · rw [h] at hnil; cases hnil
  · rw [h] at hcons; cases hcons; exact hstep

theorem hostWriteDin_of_fits {x : List Byte} {s : State} (h : fitsCapacity s.bufcap x.length = true) :
    hostWriteDin x s = .next (s.setDin x) := if_pos h

theorem hostWriteDin_of_not_fits {x : List Byte} {s : State} (h : fitsCapacity s.bufcap x.length = false) :
    hostWriteDin x s = .refused .bufferCapacity := if_neg (by simp [h])

/-- Settles O3: taking the write off the host's list leaves the capacity alone, so the check is that of `s`. -/
theorem hostWriteReplacesDinOnly : Obligations.HostWriteReplacesDinOnly := by
  intro s x rest hp
  have hstep : step s = hostWriteDin x (s.setHost ⟨rest, s.host.readings⟩) := step_of_pending hp
  refine ⟨fun hfit => ?_, fun hover => ?_⟩
  · exact hstep.trans (hostWriteDin_of_fits hfit)
  · exact hstep.trans (hostWriteDin_of_not_fits hover)

/-- Settles O4: each read puts the value in front of the readings of the state from whose list it is taken. -/
theorem hostReadsGiveValueAndChangeNothing : Obligations.HostReadsGiveValueAndChangeNothing :=
  fun _ _ => ⟨fun hresp => step_of_pending hresp, fun hdout => step_of_pending hdout⟩

end Sys2Proof.Machine
end

section
/-! The encoding (30_encoding.md sections 1 to 3): when the decoder gives a command, said once; the decoder against the
encoder and against the opcode table; and what issuing a command word does. -/

namespace Sys2Proof

/-! ### The decoder and the encoder -/

/-- The decoder gives `i` exactly where the opcode map has `i` and the word passes the checks of R75. -/
theorem decode_eq_ok_iff (cmd : CmdWord) (i : Instr) :
    decode cmd = .ok i ↔ ∃ format, opcodeRow (opField cmd) (aField cmd) (bField cmd) = some (format, i) ∧
      cField cmd = 0 ∧ (format = .z → aField cmd = 0 ∧ bField cmd = 0) ∧ (format = .a → bField cmd = 0) ∧
      (opField cmd = 0x70 → (bField cmd).toNat ≤ 1) := by
  unfold decode
  cases opcodeRow (opField cmd) (aField cmd) (bField cmd) with
  | none => simp
  | some row =>
    obtain ⟨format, j⟩ := row
    simp only [Option.some.injEq, Prod.mk.injEq]
    split_ifs <;> grind

/-- The one restriction on operands, read off the opcode and the operands (R73). -/
theorem Instr.wf_iff (i : Instr) : i.wf = true ↔ (opcodeOf i = 0x70 → (operandsOf i).2.toNat ≤ 1) := by
  cases i <;> simp [Instr.wf, ivSourceOk, opcodeOf, operandsOf]

/-- The opcode map has every command, under its opcode and at its operands (R76). -/
theorem exists_opcodeRow_eq (i : Instr) :
    ∃ format, opcodeRow (opcodeOf i) (operandsOf i).1 (operandsOf i).2 = some (format, i) := by
  cases i <;> exact ⟨_, rfl⟩

/-- Settles O9: the fields of the encoding are the opcode, the operands and zero, and there the opcode map has `i`. -/
theorem decodeOfEncodeIsIdentity : Obligations.DecodeOfEncodeIsIdentity := by
  intro i hwf
  obtain ⟨format, hrow⟩ := exists_opcodeRow_eq i
  obtain ⟨hop, ha, hb, hc⟩ := Laws.FieldsOfWord.of_encode i
  obtain ⟨-, hz, hformA, -, -⟩ := opcodeRow_spec _ _ _ _ _ hrow
  rw [decode_eq_ok_iff, hop, ha, hb, hc]
  exact ⟨format, hrow, rfl, fun h => by rw [hz h]; exact ⟨rfl, rfl⟩, fun h => by rw [hformA h], i.wf_iff.mp hwf⟩

/-- A command of the opcode map has the fields `a` and `b` as its operands, where its format's reserved fields are
zero (R71-R73). -/
theorem operandsOf_opcodeRow {op a b : Byte} {format : Format} {i : Instr} (h : opcodeRow op a b = some (format, i))
    (hz : format = .z → a = 0 ∧ b = 0) (ha : format = .a → b = 0) : operandsOf i = (a, b) := by
  obtain ⟨-, hopZ, hopA, hopAB, -⟩ := opcodeRow_spec _ _ _ _ _ h
  cases format with
  | z => rw [hopZ rfl, (hz rfl).1, (hz rfl).2]
  | a => rw [hopA rfl, ha rfl]
  | ab => exact hopAB rfl

/-- Settles O10: the opcode and the operands of what the decoder gives are the word's fields. -/
theorem encodeOfDecodeIsIdentity : Obligations.EncodeOfDecodeIsIdentity := by
  intro cmd i h
  obtain ⟨format, hrow, hc, hz, ha, hiv⟩ := (decode_eq_ok_iff cmd i).mp h
  have hop : opcodeOf i = opField cmd := (opcodeRow_spec _ _ _ _ _ hrow).1
  have hargs : operandsOf i = (aField cmd, bField cmd) := operandsOf_opcodeRow hrow hz ha
  refine ⟨?_, ?_⟩
  · calc encode i = wordOfFields (opField cmd) (aField cmd) (bField cmd) (cField cmd) := by
          rw [encode, hop, hargs, hc]
      _ = cmd := wordOfFields_fields cmd
  · rw [i.wf_iff, hop, hargs]
    exact hiv

/-- Settles O11: each word is a literal, and the decoder computes on it. -/
theorem sampleWordsDecode : Obligations.SampleWordsDecode :=
  ⟨rfl, rfl, rfl, rfl, rfl, rfl, rfl, rfl, rfl, rfl, rfl⟩

/-! ### The decoder and the opcode table -/

theorem wordOfFields_and (op a b c op' a' b' c' : Byte) :
    wordOfFields op a b c &&& wordOfFields op' a' b' c' = wordOfFields (op &&& op') (a &&& a') (b &&& b') (c &&& c') := by
  apply BitVec.eq_of_getLsbD_eq
  intro i hi
  simp only [wordOfFields, BitVec.getLsbD_and, BitVec.getLsbD_append]
  split_ifs <;> rfl

theorem wordOfFields_inj {op a b c op' a' b' c' : Byte} :
    wordOfFields op a b c = wordOfFields op' a' b' c' ↔ op = op' ∧ a = a' ∧ b = b' ∧ c = c' := by
  refine ⟨fun h => ?_, fun ⟨hop, ha, hb, hc⟩ => by rw [hop, ha, hb, hc]⟩
  exact ⟨by simpa using congrArg opField h, by simpa using congrArg aField h, by simpa using congrArg bField h,
    by simpa using congrArg cField h⟩

/-- The bits of the field `a` that must be zero in a format (R71-R73). -/
def reservedInA : Format → Byte
  | .z => 0xFF
  | .a | .ab => 0x00

/-- The bits of the field `b` that must be zero: all of it, or none, or for `MINIT` those above bit 0 (R71-R73). -/
def reservedInB (op : Byte) : Format → Byte
  | .z | .a => 0xFF
  | .ab => if op = 0x70 then 0xFE else 0x00

theorem and_ones (x : Byte) : x &&& 0xFF = x := BitVec.and_allOnes

/-- An IV source is 0 or 1 exactly where its bits above bit 0 are zero (R73). -/
theorem and_FE_eq_zero_iff : ∀ b : Byte, b &&& 0xFE = 0 ↔ b.toNat ≤ 1 := by decide

theorem and_reservedInA_eq_zero_iff (a : Byte) (format : Format) :
    a &&& reservedInA format = 0 ↔ (format = .z → a = 0) := by
  cases format with
  | z => simp only [reservedInA, and_ones, true_imp_iff]
  | a | ab => simp [reservedInA]

theorem and_reservedInB_eq_zero_iff (op b : Byte) (format : Format) :
    b &&& reservedInB op format = 0 ↔ (format ≠ .ab → b = 0) ∧ (op = 0x70 → b.toNat ≤ 1) := by
  cases format with
  | z | a => simp only [reservedInB, and_ones]; grind
  | ab =>
    by_cases h70 : op = 0x70#8
    · simp [reservedInB, h70, ← and_FE_eq_zero_iff]
    · simp [reservedInB, h70]

/-- The row of spec/opcode_table.json for a command of this format: it fixes the opcode, `c` and the reserved bits. -/
def tableRow (format : Format) (i : Instr) : TableRow :=
  ⟨mnemonicOf i, wordOfFields (opcodeOf i) 0 0 0,
    wordOfFields 0xFF (reservedInA format) (reservedInB (opcodeOf i) format) 0xFF⟩

theorem tableRow_matches_iff (format : Format) (i : Instr) (cmd : CmdWord) :
    (tableRow format i).matches cmd = true ↔ opField cmd = opcodeOf i ∧ (format = .z → aField cmd = 0) ∧
      ((format ≠ .ab → bField cmd = 0) ∧ (opcodeOf i = 0x70 → (bField cmd).toNat ≤ 1)) ∧ cField cmd = 0 := by
  conv_lhs => rw [← wordOfFields_fields cmd]
  simp only [TableRow.matches, tableRow, decide_eq_true_eq, wordOfFields_and, wordOfFields_inj, and_ones,
    and_reservedInA_eq_zero_iff, and_reservedInB_eq_zero_iff]

/-- A command of the opcode map: its row matches the word exactly where the decoder gives it. -/
theorem tableRow_matches_iff_decode {cmd : CmdWord} {format : Format} {i : Instr}
    (h : opcodeRow (opField cmd) (aField cmd) (bField cmd) = some (format, i)) :
    (tableRow format i).matches cmd = true ↔ decode cmd = .ok i := by
  have hop : opcodeOf i = opField cmd := (opcodeRow_spec _ _ _ _ _ h).1
  simp only [tableRow_matches_iff, decode_eq_ok_iff, h, hop, Option.some.injEq, Prod.mk.injEq, and_true, true_and,
    exists_eq_left']
  cases format with
  | z | a | ab => grind

/-- The row of the table that the opcode map gives an opcode; `none` for a reserved opcode. -/
def rowOfOpcode (op a b : Byte) : Option TableRow := (opcodeRow op a b).map fun p => tableRow p.1 p.2

theorem rowOfOpcode_eq_some_iff (op a b : Byte) (r : TableRow) :
    rowOfOpcode op a b = some r ↔ ∃ format i, opcodeRow op a b = some (format, i) ∧ tableRow format i = r := by
  simp [rowOfOpcode]

/-- A row says nothing of the operands. -/
theorem rowOfOpcode_operands_irrelevant (op a b a' b' : Byte) : rowOfOpcode op a b = rowOfOpcode op a' b' := by
  unfold rowOfOpcode opcodeRow
  split <;> rfl

/-- The table is the opcode map read in the order of the opcodes (R76). -/
theorem opcodeTable_eq_filterMap :
    opcodeTable = (List.range 256).filterMap fun n => rowOfOpcode (BitVec.ofNat 8 n) 0 0 := by decide

/-- The rows of the table are those of the opcode map, whatever the operands. -/
theorem mem_opcodeTable_iff (r : TableRow) (a b : Byte) : r ∈ opcodeTable ↔ ∃ op, rowOfOpcode op a b = some r := by
  rw [opcodeTable_eq_filterMap, List.mem_filterMap]
  constructor
  · rintro ⟨n, -, hr⟩
    exact ⟨BitVec.ofNat 8 n, (rowOfOpcode_operands_irrelevant _ _ _ _ _).trans hr⟩
  · rintro ⟨op, hr⟩
    refine ⟨op.toNat, List.mem_range.mpr op.isLt, ?_⟩
    rw [BitVec.ofNat_toNat, BitVec.setWidth_eq]
    exact (rowOfOpcode_operands_irrelevant _ _ _ _ _).trans hr

/-- Settles O8: the table has exactly the rows of the opcode map, and a row matches where its command is decoded. -/
theorem decoderAgreesWithOpcodeTable : Obligations.DecoderAgreesWithOpcodeTable := by
  intro cmd name
  simp only [mem_opcodeTable_iff _ (aField cmd) (bField cmd), rowOfOpcode_eq_some_iff]
  constructor
  · rintro ⟨i, hdec, hname⟩
    obtain ⟨format, hrow, -⟩ := (decode_eq_ok_iff cmd i).mp hdec
    exact ⟨tableRow format i, ⟨opField cmd, format, i, hrow, rfl⟩, (tableRow_matches_iff_decode hrow).mpr hdec, hname⟩
  · rintro ⟨_, ⟨op, format, i, hrow, rfl⟩, hmatch, hname⟩
    obtain rfl : op = opField cmd := by
      rw [← (opcodeRow_spec _ _ _ _ _ hrow).1, ((tableRow_matches_iff format i cmd).mp hmatch).1]
    exact ⟨i, (tableRow_matches_iff_decode hrow).mp hmatch, hname⟩

end Sys2Proof

namespace Sys2Proof.Machine

/-! ### Issuing a command -/

theorem hostIssue_of_decode {cmd : CmdWord} {i : Instr} (h : decode cmd = .ok i) (s : State) :
    hostIssue cmd s = withinCapacity (exec i s) := by
  simp [hostIssue, h]

theorem withinCapacity_of_fits {t : State} (h : fitsCapacity t.bufcap t.dout.length = true) :
    withinCapacity (.next t) = .next t := if_pos h

theorem withinCapacity_of_not_fits {t : State} (h : fitsCapacity t.bufcap t.dout.length = false) :
    withinCapacity (.next t) = .refused .bufferCapacity := if_neg (by simp [h])

theorem exec_bufcap {i : Instr} {s t : State} (h : exec i s = .next t) : t.bufcap = s.bufcap := by
  obtain ⟨-, -, hcap, -⟩ := exec_writesOnlyMarked h
  exact hcap

/-- With no bound the capacity check around a command does nothing. -/
theorem withinCapacity_exec_of_unbounded {s : State} (h : s.bufcap = none) (i : Instr) :
    withinCapacity (exec i s) = exec i s := by
  cases hx : exec i s with
  | next t => exact withinCapacity_of_fits (by rw [exec_bufcap hx, h]; rfl)
  | fault r | refused r => rfl

/-- Settles O6: the step is the issue of the word, and no command changes the capacity its output is held against. -/
theorem issueRunsDecodedCommand : Obligations.IssueRunsDecodedCommand := by
  intro s cmd i rest hp hdec
  have hstep : step s = withinCapacity (exec i { s with host := ⟨rest, s.host.readings⟩ }) :=
    (step_of_pending hp).trans (hostIssue_of_decode hdec _)
  refine ⟨hstep, fun hnone => ?_, fun n t hn hx => ?_⟩
  · exact hstep.trans (withinCapacity_exec_of_unbounded (by exact hnone) i)
  · have hcap : t.bufcap = some n := (exec_bufcap hx).trans hn
    have hstep' : step s = withinCapacity (.next t) := hstep.trans (congrArg withinCapacity hx)
    refine ⟨fun hle => ?_, fun hlt => ?_⟩
    · exact hstep'.trans (withinCapacity_of_fits (by simpa [hcap, fitsCapacity] using hle))
    · exact hstep'.trans (withinCapacity_of_not_fits (by simpa [hcap, fitsCapacity] using hlt))

end Sys2Proof.Machine
end

section
/-! Arithmetic in GF(2^8) (40_gf_arithmetic.md sections 1 and 2). One idea carries the laws: a function on bytes that is
additive and commutes with `mul2` is multiplication by its value at 1. `mul2`, the constant multipliers, `gmul · b` and
the eighth iterate of squaring are such functions. -/

namespace Sys2Proof.Machine

/-! ### Functions linear over `mul2` -/

/-- `f` is additive and commutes with `mul2`: it is linear over the ring that `mul2` generates. -/
structure GfLinear (f : Byte → Byte) : Prop where
  map_xor (a b : Byte) : f (a ^^^ b) = f a ^^^ f b
  map_mul2 (a : Byte) : f (mul2 a) = mul2 (f a)

/-- A term selected by a bit is additive in the bit. -/
theorem ite_bool_xor (p q : Bool) (x : Byte) :
    (if (p ^^ q) = true then x else 0x00) = (if p = true then x else 0x00) ^^^ (if q = true then x else 0x00) := by
  cases p <;> cases q <;> simp

theorem mul2_xor (a b : Byte) : mul2 (a ^^^ b) = mul2 a ^^^ mul2 b := by
  unfold mul2
  rw [BitVec.shiftLeft_xor_distrib, BitVec.getLsbD_xor, ite_bool_xor]
  ac_rfl

namespace GfLinear

theorem id : GfLinear fun a => a := ⟨fun _ _ => rfl, fun _ => rfl⟩

theorem mul2 : GfLinear mul2 := ⟨mul2_xor, fun _ => rfl⟩

theorem zero : GfLinear fun _ => 0 := ⟨fun _ _ => rfl, fun _ => rfl⟩

variable {f g : Byte → Byte}

theorem comp (hf : GfLinear f) (hg : GfLinear g) : GfLinear fun a => f (g a) :=
  ⟨fun a b => by rw [hg.map_xor, hf.map_xor], fun a => by rw [hg.map_mul2, hf.map_mul2]⟩

theorem xor (hf : GfLinear f) (hg : GfLinear g) : GfLinear fun a => f a ^^^ g a where
  map_xor a b := by rw [hf.map_xor, hg.map_xor]; ac_rfl
  map_mul2 a := by rw [hf.map_mul2, hg.map_mul2, mul2_xor]

theorem mul2Pow : ∀ k, GfLinear (mul2Pow k)
  | 0 => id
  | k + 1 => mul2.comp (mul2Pow k)

theorem gmulUpTo (b : Byte) : ∀ n, GfLinear fun a => gmulUpTo a b n
  | 0 => zero
  | n + 1 => (gmulUpTo b n).xor <| by
      split
      · exact mul2Pow n
      · exact zero

theorem gmul (b : Byte) : GfLinear fun a => gmul a b := gmulUpTo b 8

theorem map_zero (hf : GfLinear f) : f 0 = 0 := by
  simpa using hf.map_xor 0 0

theorem map_mul2Pow (hf : GfLinear f) (a : Byte) : ∀ k, f (Machine.mul2Pow k a) = Machine.mul2Pow k (f a)
  | 0 => rfl
  | k + 1 => by rw [Machine.mul2Pow, hf.map_mul2, hf.map_mul2Pow a k, Machine.mul2Pow]

theorem map_gmulUpTo (hf : GfLinear f) (a b : Byte) : ∀ n, f (Machine.gmulUpTo a b n) = Machine.gmulUpTo (f a) b n
  | 0 => hf.map_zero
  | n + 1 => by
    rw [Machine.gmulUpTo, Machine.gmulUpTo, hf.map_xor, hf.map_gmulUpTo a b n, apply_ite f, hf.map_mul2Pow, hf.map_zero]

/-- A linear function passes through the first factor of a product. -/
theorem map_gmul (hf : GfLinear f) (a b : Byte) : f (Machine.gmul a b) = Machine.gmul (f a) b := hf.map_gmulUpTo a b 8

end GfLinear

/-! ### The laws of the ring -/

theorem gmulUpTo_xor_right (a b c : Byte) : ∀ n, gmulUpTo a (b ^^^ c) n = gmulUpTo a b n ^^^ gmulUpTo a c n
  | 0 => BitVec.xor_self.symm
  | n + 1 => by
    simp only [gmulUpTo, gmulUpTo_xor_right a b c n, BitVec.getLsbD_xor, ite_bool_xor]
    ac_rfl

theorem gmul_xor_right (a b c : Byte) : gmul a (b ^^^ c) = gmul a b ^^^ gmul a c := gmulUpTo_xor_right a b c 8

theorem gmul_xor_left (a b c : Byte) : gmul (a ^^^ b) c = gmul a c ^^^ gmul b c := (GfLinear.gmul c).map_xor a b

theorem one_gmul : ∀ b : Byte, gmul 1 b = b := by decide

theorem gmul_right_comm (a b c : Byte) : gmul (gmul a b) c = gmul (gmul a c) b := (GfLinear.gmul c).map_gmul a b

theorem gmul_comm (a b : Byte) : gmul a b = gmul b a := by
  have h := gmul_right_comm 1 a b
  rwa [one_gmul, one_gmul] at h

theorem gmul_assoc (a b c : Byte) : gmul (gmul a b) c = gmul a (gmul b c) := by
  rw [gmul_comm a b, gmul_right_comm, gmul_comm]

theorem gmul_one (a : Byte) : gmul a 1 = a := by rw [gmul_comm, one_gmul]

theorem zero_gmul (a : Byte) : gmul 0 a = 0 := (GfLinear.gmul a).map_zero

theorem gmul_zero (a : Byte) : gmul a 0 = 0 := by rw [gmul_comm, zero_gmul]

/-- A linear function is multiplication by its value at 1. -/
theorem GfLinear.gmul_apply_one {f : Byte → Byte} (hf : GfLinear f) (a : Byte) : Machine.gmul a (f 1) = f a := by
  rw [gmul_comm, ← hf.map_gmul, one_gmul]

/-! ### The constant multipliers -/

theorem GfLinear.mul4 : GfLinear mul4 := GfLinear.mul2.comp .mul2

theorem GfLinear.mul8 : GfLinear mul8 := GfLinear.mul2.comp .mul4

theorem GfLinear.mul3 : GfLinear mul3 := GfLinear.mul2.xor .id

theorem GfLinear.mul9 : GfLinear mul9 := GfLinear.mul8.xor .id

theorem GfLinear.mul11 : GfLinear mul11 := (GfLinear.mul8.xor .mul2).xor .id

theorem GfLinear.mul13 : GfLinear mul13 := (GfLinear.mul8.xor .mul4).xor .id

theorem GfLinear.mul14 : GfLinear mul14 := (GfLinear.mul8.xor .mul4).xor .mul2

theorem gmul_two (a : Byte) : gmul a 2 = mul2 a := GfLinear.mul2.gmul_apply_one a

theorem gmulUpTo_eq_foldl (a b : Byte) : ∀ n,
    gmulUpTo a b n = (List.range n).foldl (fun x k => if b.getLsbD k then x ^^^ mul2Pow k a else x) 0x00
  | 0 => rfl
  | n + 1 => by
    rw [gmulUpTo, gmulUpTo_eq_foldl a b n, List.range_succ, List.foldl_append]
    cases h : b.getLsbD n <;> simp [h]

/-- Settles O13: the sum is built one bit position at a time; each named multiplier is linear, with the multiplier as its
value at 1. -/
theorem gmulSumsShiftedMultiples : Obligations.GmulSumsShiftedMultiples :=
  ⟨fun a b => gmulUpTo_eq_foldl a b 8, fun a => ⟨gmul_one a, gmul_two a, GfLinear.mul3.gmul_apply_one a,
    GfLinear.mul9.gmul_apply_one a, GfLinear.mul11.gmul_apply_one a, GfLinear.mul13.gmul_apply_one a,
    GfLinear.mul14.gmul_apply_one a⟩⟩

/-! ### Inverses -/

/-- Multiplication by a byte that has an inverse is a bijection. -/
theorem gmul_bijective_of_gmul_eq_one {a b : Byte} (h : gmul a b = 1) : Function.Bijective (gmul a) := by
  rw [← Finite.surjective_iff_bijective]
  exact fun c => ⟨gmul b c, by rw [← gmul_assoc, h, one_gmul]⟩

theorem mul2_eq_gmul : mul2 = gmul 2 := funext fun a => by rw [gmul_comm, gmul_two]

/-- Settles O12: `mul2` is multiplication by 2, whose inverse is 0x8D. -/
theorem mulTwoShiftsAndReduces : Obligations.MulTwoShiftsAndReduces := by
  refine ⟨fun a => ?_, mul2_xor, ?_, rfl, rfl, rfl, rfl, rfl⟩
  · unfold mul2
    split
    · rfl
    · exact BitVec.xor_zero
  · rw [mul2_eq_gmul]
    exact (gmul_bijective_of_gmul_eq_one (b := 0x8D) rfl).existsUnique

/-- The square in GF(2^8). -/
def gsquare (a : Byte) : Byte := gmul a a

theorem gsquare_gmul (a b : Byte) : gsquare (gmul a b) = gmul (gsquare a) (gsquare b) := by
  simp only [gsquare, gmul_assoc, gmul_comm b (gmul a b)]

/-- Squaring is additive: the two mixed products are equal and cancel. -/
theorem gsquare_xor (a b : Byte) : gsquare (a ^^^ b) = gsquare a ^^^ gsquare b := by
  simp [gsquare, gmul_xor_left, gmul_xor_right, gmul_comm b a, BitVec.xor_assoc]

theorem gsquare_one : gsquare 1 = 1 := one_gmul 1

/-- The orbit of 2 under squaring, in two halves (`decide` on all eight squares recurses too deep). -/
theorem gsquare_iterate_eight_two : gsquare^[8] 2 = 2 := by
  have hfour : gsquare^[4] 2 = 0x5E := by decide
  have hfour' : gsquare^[4] 0x5E = 2 := by decide
  rw [Function.iterate_add_apply gsquare 4 4, hfour, hfour']

/-- `a^256 = a`: the eighth iterate of squaring is a ring homomorphism that fixes 2, so it is linear over `mul2`. -/
theorem gsquare_iterate_eight (a : Byte) : gsquare^[8] a = a := by
  have hlinear : GfLinear gsquare^[8] := by
    refine ⟨Function.Semiconj₂.iterate gsquare_xor 8, fun a => ?_⟩
    rw [mul2_eq_gmul, Function.Semiconj₂.iterate gsquare_gmul 8, gsquare_iterate_eight_two]
  rw [← hlinear.gmul_apply_one, Function.iterate_fixed gsquare_one, gmul_one]

theorem exists_gsquare_iterate_eq_gmul (a : Byte) (k : Nat) : ∃ c, gsquare^[k] a = gmul a c := by
  induction k generalizing a with
  | zero => exact ⟨1, (gmul_one a).symm⟩
  | succ k ih =>
    obtain ⟨c, hc⟩ := ih (gsquare a)
    exact ⟨gmul a c, by rw [Function.iterate_succ_apply, hc, gsquare, gmul_assoc]⟩

/-- The ring has no idempotent but 0 and 1, so it is no product of two rings. -/
theorem eq_zero_or_one_of_gsquare_eq : ∀ e : Byte, gsquare e = e → e = 0 ∨ e = 1 := by decide

/-- Every nonzero byte has an inverse: `a = a^2 · c` makes `a · c` an idempotent, and it is not 0. -/
theorem exists_gmul_eq_one {a : Byte} (ha : a ≠ 0) : ∃ c, gmul a c = 1 := by
  obtain ⟨c, hc⟩ := exists_gsquare_iterate_eq_gmul (gsquare a) 7
  have hregular : gmul (gmul a c) a = a := by
    rw [gmul_right_comm, ← gsquare, ← hc, ← Function.iterate_succ_apply, gsquare_iterate_eight]
  have hidem : gsquare (gmul a c) = gmul a c := by rw [gsquare, ← gmul_assoc, hregular]
  refine ⟨c, (eq_zero_or_one_of_gsquare_eq _ hidem).resolve_left fun hzero => ha ?_⟩
  rw [← hregular, hzero, zero_gmul]

/-- Settles O14: the ring laws, and multiplication by a nonzero byte is a bijection. -/
theorem gmulIsFieldMultiplication : Obligations.GmulIsFieldMultiplication := by
  refine ⟨gmul_comm, fun a => ⟨gmul_zero a, gmul_one a⟩, gmul_xor_right, gmul_assoc, fun a ha => ?_⟩
  obtain ⟨c, hc⟩ := exists_gmul_eq_one ha
  exact (gmul_bijective_of_gmul_eq_one hc).existsUnique 1

/-! ### The commands -/

/-- An opcode whose row has format A is decoded exactly where `b` and `c` are zero (R72). -/
theorem encodedA_of_opcodeRow {op : Byte} {i : Byte → Instr} (hrow : ∀ a b, opcodeRow op a b = some (.a, i a))
    (hop : op ≠ 0x70) : EncodedA op i := by
  intro a b c
  rw [decode_wordOfFields, hrow]
  refine ⟨fun ⟨hb, hc⟩ => by grind, fun h => ?_⟩
  by_cases hc : c = 0
  · exact ⟨.nonzeroBInA, by grind⟩
  · exact ⟨.nonzeroC, by grind⟩

/-- An opcode whose row has format AB is decoded exactly where `b` is admitted and `c` is zero (R73). -/
theorem encodedAB_of_opcodeRow {op : Byte} {i : Byte → Byte → Instr} {ok : Byte → Bool}
    (hrow : ∀ a b, opcodeRow op a b = some (.ab, i a b)) (hok : ∀ b, ok b = true ↔ (op = 0x70 → b.toNat ≤ 1)) :
    EncodedAB op i ok := by
  intro a b c
  rw [decode_wordOfFields, hrow, hok]
  refine ⟨fun ⟨hb, hc⟩ => by grind, fun h => ?_⟩
  by_cases hc : c = 0
  · exact ⟨.ivSourceAboveOne, by grind⟩
  · exact ⟨.nonzeroC, by grind⟩

/-- Settles O15: the two rows of the opcode map, and one write of `DOUT` before `RESP`. -/
theorem multiplierCommandsReturnProduct : Obligations.MultiplierCommandsReturnProduct :=
  ⟨encodedA_of_opcodeRow (fun _ _ => rfl) (by decide), encodedAB_of_opcodeRow (fun _ _ => rfl) (by simp),
    fun _ _ => rfl, fun _ _ _ => rfl⟩

end Sys2Proof.Machine
end

section
/-! The substitution tables (41_sbox.md). The affine map of R106 has an inverse, so the construction is checked from the
table's side: undoing the affine map on `S[b]` leaves a byte that is inverse to `b`, and a byte has one inverse only. -/

namespace Sys2Proof.Machine

/-! ### The affine map of the construction (R106) -/

/-- The affine map of R106: the byte and its rotations by one to four places, and the constant 0x63. -/
def sboxAffine (v : Byte) : Byte :=
  v ^^^ v.rotateLeft 4 ^^^ v.rotateLeft 3 ^^^ v.rotateLeft 2 ^^^ v.rotateLeft 1 ^^^ 0x63

/-- The inverse of the affine map of R106. -/
def sboxUnaffine (x : Byte) : Byte := x.rotateLeft 1 ^^^ x.rotateLeft 3 ^^^ x.rotateLeft 6 ^^^ 0x05

theorem sboxAffine_sboxUnaffine : ∀ x : Byte, sboxAffine (sboxUnaffine x) = x := by decide

/-- The bits of a rotated byte, with the wrapped index that R106 writes. -/
theorem getLsbD_rotateLeft_byte (v : Byte) {i k : Nat} (hi : i < 8) (hk : k < 8) :
    (v.rotateLeft k).getLsbD i = v.getLsbD ((i + (8 - k)) % 8) := by
  rw [BitVec.getLsbD_rotateLeft_of_le hk]
  by_cases h : i < k
  · have hindex : (i + (8 - k)) % 8 = 8 - k + i := by omega
    simp [h, hindex]
  · have hindex : (i + (8 - k)) % 8 = i - k := by omega
    simp [h, hi, hindex]

theorem getLsbD_sboxAffine (v : Byte) {i : Nat} (hi : i < 8) :
    (sboxAffine v).getLsbD i =
      (v.getLsbD i ^^ v.getLsbD ((i + 4) % 8) ^^ v.getLsbD ((i + 5) % 8) ^^ v.getLsbD ((i + 6) % 8) ^^
        v.getLsbD ((i + 7) % 8) ^^ (0x63 : Byte).getLsbD i) := by
  simp only [sboxAffine, BitVec.getLsbD_xor, getLsbD_rotateLeft_byte v hi, Nat.reduceLT, Nat.reduceSub]

/-! ### The forward table is inverse, then affine (R106) -/

theorem sboxUnaffine_sboxTable_zero : sboxUnaffine (sboxTable 0) = 0 := by decide

/-- Undoing the affine map on an entry of `S` leaves an inverse of the entry's index. -/
theorem gmul_sboxUnaffine_sboxTable : ∀ b : Byte, b ≠ 0 → gmul b (sboxUnaffine (sboxTable b)) = 1 := by decide

theorem gmul_eq_one_unique {b u v : Byte} (hu : gmul b u = 1) (hv : gmul b v = 1) : u = v :=
  (gmul_bijective_of_gmul_eq_one hu).injective (hu.trans hv.symm)

/-- An entry of `S` is the affine image of the inverse of its index, 0 counting as the inverse of 0. -/
theorem sboxTable_eq_sboxAffine {b v : Byte} (hzero : b = 0 → v = 0) (hinv : b ≠ 0 → gmul b v = 1) :
    sboxTable b = sboxAffine v := by
  have hv : sboxUnaffine (sboxTable b) = v := by
    by_cases hb : b = 0
    · rw [hzero hb, hb, sboxUnaffine_sboxTable_zero]
    · exact gmul_eq_one_unique (gmul_sboxUnaffine_sboxTable b hb) (hinv hb)
  rw [← hv, sboxAffine_sboxUnaffine]

/-- Settles O17: the entry is the affine image of the inverse, and the affine map has the stated bits. -/
theorem sboxIsInverseThenAffine : Obligations.SboxIsInverseThenAffine := by
  intro b v hzero hinv i hi
  rw [sboxTable_eq_sboxAffine hzero hinv]
  exact getLsbD_sboxAffine v hi

/-! ### The two tables undo each other (R108, R110) -/

theorem invSboxTable_sboxTable : ∀ a : Byte, invSboxTable (sboxTable a) = a := by decide

theorem sboxTable_bijective : Function.Bijective sboxTable :=
  Finite.injective_iff_bijective.mp (Function.LeftInverse.injective invSboxTable_sboxTable)

/-- On a finite set a left inverse is a right inverse. -/
theorem sboxTable_invSboxTable : ∀ a : Byte, sboxTable (invSboxTable a) = a :=
  Function.LeftInverse.rightInverse_of_surjective invSboxTable_sboxTable sboxTable_bijective.surjective

theorem invSboxTable_bijective : Function.Bijective invSboxTable :=
  Function.bijective_iff_has_inverse.mpr ⟨sboxTable, sboxTable_invSboxTable, invSboxTable_sboxTable⟩

theorem sboxTable_ne_self_or_complement : ∀ b : Byte, sboxTable b ≠ b ∧ sboxTable b ≠ b ^^^ 0xFF := by decide

/-- Settles O16: each table is a bijection because the other undoes it. -/
theorem tablesArePermutations : Obligations.TablesArePermutations :=
  ⟨sboxTable_bijective.existsUnique, invSboxTable_bijective.existsUnique, rfl, rfl, rfl, rfl,
    sboxTable_ne_self_or_complement⟩

/-! ### The commands (R109, R110) -/

/-- Settles O18: the two rows of the opcode map, and one write of `DOUT` before `RESP`. -/
theorem tableCommandsReturnEntry : Obligations.TableCommandsReturnEntry :=
  ⟨encodedA_of_opcodeRow (fun _ _ => rfl) (by decide), encodedA_of_opcodeRow (fun _ _ => rfl) (by decide),
    fun _ _ => rfl, fun _ _ => rfl, fun a => ⟨invSboxTable_sboxTable a, sboxTable_invSboxTable a⟩⟩

end Sys2Proof.Machine
end

section
/-! The key schedule (42_key_schedule.md). The expansion only appends words, so a word once written is final, and each
appended word is the recurrence on words already written. The register `W` then shows these words one by one. -/

namespace Sys2Proof.Machine

/-! ### Round constants (R115) -/

theorem rcon_succ : ∀ j < 14, 1 ≤ j → rcon (j + 1) = mul2 (rcon j) := by decide

/-- Settles O19: the table is finite, and each of its steps is a doubling. -/
theorem roundConstantsArePowersOfTwo : Obligations.RoundConstantsArePowersOfTwo :=
  ⟨rfl, rfl, fun j hj hj14 => rcon_succ j hj14 hj⟩

/-! ### The key words (R26, R120) -/

@[simp] theorem wordsOfBytes_length (n : Nat) (x : List Byte) : (wordsOfBytes n x).length = n := by
  induction n generalizing x with
  | zero => rfl
  | succ n ih => simp [wordsOfBytes, ih]

/-- Word `i` of a byte sequence is the word at offset `4 i`. -/
theorem wordsOfBytes_getD {n i : Nat} (h : i < n) (x : List Byte) :
    (wordsOfBytes n x).getD i Word.zero = wordOfBytes (x.drop (4 * i)) := by
  induction n generalizing i x with
  | zero => omega
  | succ n ih =>
    cases i with
    | zero => rfl
    | succ i =>
      rw [wordsOfBytes, List.getD_cons_succ, ih (by omega), List.drop_drop]
      congr 2; omega

theorem wordBytes_wordOfBytes_getD (x : List Byte) {j : Nat} (h : j < 4) :
    (wordBytes (wordOfBytes x)).getD j 0 = x.getD j 0 := by
  interval_cases j <;> rfl

/-! ### The expansion (R119, R120) -/

@[simp] theorem extendWords_length (nk n : Nat) (ws : List Word) : (extendWords nk n ws).length = ws.length + n := by
  induction n generalizing ws with
  | zero => rfl
  | succ n ih => rw [extendWords, ih, List.length_append, List.length_singleton]; omega

/-- The expansion leaves the words it starts from as they are. -/
theorem extendWords_getD_of_lt (nk n : Nat) {ws : List Word} {i : Nat} (h : i < ws.length) :
    (extendWords nk n ws).getD i Word.zero = ws.getD i Word.zero := by
  induction n generalizing ws with
  | zero => rfl
  | succ n ih =>
    have happ : i < (ws ++ [nextWord nk ws]).length := by rw [List.length_append]; omega
    rw [extendWords, ih happ, List.getD_append _ _ _ _ h]

/-- Word `i` of `ws` is what R120 makes of the word before it and of the word `nk` places before it. -/
def SatisfiesRecurrence (nk : Nat) (ws : List Word) (i : Nat) : Prop :=
  ws.getD i Word.zero =
    (scheduleTransform nk i (ws.getD (i - 1) Word.zero)).xor (ws.getD (i - nk) Word.zero)

/-- The word appended to `ws` satisfies the recurrence, however the expansion goes on. -/
theorem extendWords_append_nextWord_recurrence {nk : Nat} (n : Nat) {ws : List Word} (hnk : 0 < nk)
    (hws : 0 < ws.length) :
    SatisfiesRecurrence nk (extendWords nk n (ws ++ [nextWord nk ws])) ws.length := by
  have hold {j : Nat} (hj : j < ws.length) :
      (extendWords nk n (ws ++ [nextWord nk ws])).getD j Word.zero = ws.getD j Word.zero :=
    extendWords_getD_of_lt nk (n + 1) hj
  have hnew : (extendWords nk n (ws ++ [nextWord nk ws])).getD ws.length Word.zero = nextWord nk ws := by
    rw [extendWords_getD_of_lt nk n (by simp)]
    simp
  rw [SatisfiesRecurrence, hnew, hold (by omega), hold (by omega), nextWord]

theorem extendWords_recurrence {nk n i : Nat} {ws : List Word} (hnk : 0 < nk) (hws : 0 < ws.length) (hlo : ws.length ≤ i)
    (hhi : i < ws.length + n) : SatisfiesRecurrence nk (extendWords nk n ws) i := by
  induction n generalizing ws with
  | zero => omega
  | succ n ih =>
    rcases Nat.eq_or_lt_of_le hlo with rfl | hlt
    · exact extendWords_append_nextWord_recurrence n hnk hws
    · exact ih (by simp) (by simpa using hlt) (by simp; omega)

theorem expandKey_length {nk nr : Nat} (h : nk ≤ 4 * (nr + 1)) (key : List Byte) :
    (expandKey nk nr key).length = 4 * (nr + 1) := by
  simp [expandKey, h]

theorem expandKey_getD_of_lt {nk i : Nat} (nr : Nat) (key : List Byte) (h : i < nk) :
    (expandKey nk nr key).getD i Word.zero = wordOfBytes (key.drop (4 * i)) := by
  rw [expandKey, extendWords_getD_of_lt _ _ (by simpa using h), wordsOfBytes_getD h]

theorem expandKey_recurrence {nk nr i : Nat} (key : List Byte) (hnk : 0 < nk) (hlo : nk ≤ i) (hhi : i < 4 * (nr + 1)) :
    SatisfiesRecurrence nk (expandKey nk nr key) i :=
  extendWords_recurrence hnk (by simpa using hnk) (by simpa using hlo) (by simp; omega)

theorem coreWord_eq (x : Word) (j : Nat) :
    coreWord x j = ⟨sboxTable x.b1 ^^^ rcon j, sboxTable x.b2, sboxTable x.b3, sboxTable x.b0⟩ := by
  simp [coreWord, rotWord, subWord, Word.xor]

/-! ### The schedule in the register `W` (R27, R123) -/

/-- The parameters of the three keys (R116): the expansion starts from at least one word and fits the register `W`. -/
theorem schedule_bounds {len nk nr : Nat}
    (h : (len, nk, nr) = (16, 4, 10) ∨ (len, nk, nr) = (24, 6, 12) ∨ (len, nk, nr) = (32, 8, 14)) :
    keyParams len = some (nk, nr) ∧ 0 < nk ∧ nk ≤ 4 * (nr + 1) ∧ 4 * (nr + 1) ≤ 60 := by
  obtain h | h | h := h <;> cases h <;> decide

theorem wordBytes_scheduleRegister_expandKey {nk nr i j : Nat} (key : List Byte) (hi : i < nk) (hnk : nk ≤ 60)
    (hj : j < 4) :
    (wordBytes (wordAt (scheduleRegister (expandKey nk nr key)) i)).getD j 0 = key.getD (4 * i + j) 0 := by
  rw [wordAt_scheduleRegister _ _ (by omega), expandKey_getD_of_lt nr key hi, wordBytes_wordOfBytes_getD _ hj]
  simp

theorem wordAt_scheduleRegister_expandKey_recurrence {nk nr i : Nat} (key : List Byte) (hnk : 0 < nk) (hlo : nk ≤ i)
    (hhi : i < 4 * (nr + 1)) (hfit : 4 * (nr + 1) ≤ 60) :
    wordAt (scheduleRegister (expandKey nk nr key)) i =
      (scheduleTransform nk i (wordAt (scheduleRegister (expandKey nk nr key)) (i - 1))).xor
        (wordAt (scheduleRegister (expandKey nk nr key)) (i - nk)) := by
  rw [wordAt_scheduleRegister _ _ (by omega), wordAt_scheduleRegister _ _ (by omega),
    wordAt_scheduleRegister _ _ (by omega)]
  exact expandKey_recurrence key hnk hlo hhi

theorem wordAt_scheduleRegister_expandKey_of_ge {nk nr i : Nat} (key : List Byte) (hnk : nk ≤ 4 * (nr + 1))
    (hlo : 4 * (nr + 1) ≤ i) (hi : i < 60) : wordAt (scheduleRegister (expandKey nk nr key)) i = Word.zero := by
  rw [wordAt_scheduleRegister _ _ hi, List.getD_eq_default _ _ (by rwa [expandKey_length hnk])]

/-! ### How a command answers, by its first error (R226, R228) -/

theorem exec_of_firstError_eq_some {i : Instr} {s : State} {e : Error} (h : firstError i s = some e) :
    exec i s = .next (s.setResp e.code) := by
  rw [exec_eq_answer, answer_eq_firstError, h]
  rfl

theorem exec_of_firstError_eq_none {i : Instr} {s : State} (h : firstError i s = none) :
    exec i s = .next ((committed s i).setResp 0x00) := by
  rw [exec_eq_answer, answer_eq_firstError, h]
  rfl

/-! ### `KEYLOAD` (R123) -/

/-- An opcode whose row has format Z is decoded exactly where `a`, `b` and `c` are zero (R71). -/
theorem encodedZ_of_opcodeRow {op : Byte} {i : Instr} (hrow : ∀ a b, opcodeRow op a b = some (.z, i))
    (hop : op ≠ 0x70) : EncodedZ op i := by
  intro a b c
  rw [decode_wordOfFields, hrow]
  refine ⟨fun ⟨ha, hb, hc⟩ => by grind, fun h => ?_⟩
  by_cases hc : c = 0
  · exact ⟨.nonzeroOperandInZ, by grind⟩
  · exact ⟨.nonzeroC, by grind⟩

theorem exec_keyload_of_bad_length {s : State} (h16 : s.din.length ≠ 16) (h24 : s.din.length ≠ 24)
    (h32 : s.din.length ≠ 32) : exec .keyload s = .next (s.setResp 0x01) :=
  exec_of_firstError_eq_some (e := .invalidKeyLength) (by simp [firstError, errorsOf, errorApplies, h16, h24, h32])

theorem setKey_setResp (s : State) (w : Vector Word 60) (klen nk nr resp : Byte) :
    (s.setKey w klen nk nr).setResp resp =
      { s with w := w, klen := klen, nk := nk, nr := nr, keyValid := true, resp := resp } := rfl

theorem exec_keyload_of_keyParams {s : State} {nk nr : Nat} (h : keyParams s.din.length = some (nk, nr)) :
    exec .keyload s = .next { s with
      w := scheduleRegister (expandKey nk nr s.din), klen := BitVec.ofNat 8 s.din.length, nk := BitVec.ofNat 8 nk,
      nr := BitVec.ofNat 8 nr, keyValid := true, resp := 0x00 } := by
  rw [← setKey_setResp]
  simp only [exec, execKeyload, h]
  rfl

/-- Settles O20: the register `W` holds the expansion, whose words are final once appended. -/
theorem keyloadExpandsTheKey : Obligations.KeyloadExpandsTheKey := by
  refine ⟨encodedZ_of_opcodeRow (fun _ _ => rfl) (by decide), fun s h16 h24 h32 => ?_, fun s nk nr hkey => ?_⟩
  · exact exec_keyload_of_bad_length h16 h24 h32
  obtain ⟨hparams, hpos, hnk, hfit⟩ := schedule_bounds hkey
  refine ⟨scheduleRegister (expandKey nk nr s.din), exec_keyload_of_keyParams hparams, fun i hi j hj => ?_,
    fun i hlo hhi t ht => ?_, fun i hlo hi => ?_⟩
  · exact wordBytes_scheduleRegister_expandKey s.din hi (hnk.trans hfit) hj
  · rw [wordAt_scheduleRegister_expandKey_recurrence s.din hpos hlo hhi hfit, ← ht, scheduleTransform, coreWord_eq,
      subWord]
  · exact wordAt_scheduleRegister_expandKey_of_ge s.din hnk hlo hi

/-! ### `KWREAD` and `RKREAD` (R124, R125) -/

section
variable {i : Instr} {s : State} (herr : errorsOf i = [.notReady, .operandRange])
include herr

/-- A command with an index into the schedule is rejected first for want of a key. -/
theorem exec_indexed_of_needsMissing (hneeds : needsMissing i s = true) : exec i s = .next (s.setResp 0x07) :=
  exec_of_firstError_eq_some (e := .notReady) (by simp [firstError, herr, errorApplies, hneeds])

theorem exec_indexed_of_indexBeyond (hneeds : needsMissing i s = false) (hindex : indexBeyond i s = true) :
    exec i s = .next (s.setResp 0x09) :=
  exec_of_firstError_eq_some (e := .operandRange) (by simp [firstError, herr, errorApplies, hneeds, hindex])

theorem exec_indexed_of_index_legal (hneeds : needsMissing i s = false) (hindex : indexBeyond i s = false) :
    exec i s = .next ((committed s i).setResp 0x00) :=
  exec_of_firstError_eq_none (by simp [firstError, herr, errorApplies, hneeds, hindex])

end

theorem exec_kwread_of_legal {s : State} {a : Byte} (hkey : s.keyValid = true) (ha : a.toNat < 4 * (s.nr.toNat + 1)) :
    exec (.kwread a) s = .next ((s.setDout (wordBytes (wordAt s.w a.toNat))).setResp 0x00) :=
  exec_indexed_of_index_legal rfl (by simp [needsMissing, hkey]) (by simpa [indexBeyond] using ha)

theorem exec_rkread_of_legal {s : State} {a : Byte} (hkey : s.keyValid = true) (ha : a.toNat ≤ s.nr.toNat) :
    exec (.rkread a) s = .next ((s.setDout (blockBytes (roundKey s.w a.toNat))).setResp 0x00) :=
  exec_indexed_of_index_legal rfl (by simp [needsMissing, hkey]) (by simpa [indexBeyond] using ha)

/-- Settles O21: both commands have the errors `NotReady` and `OperandRange`, in this order. -/
theorem keyReadsReturnTheSchedule : Obligations.KeyReadsReturnTheSchedule := by
  refine ⟨encodedA_of_opcodeRow (fun _ _ => rfl) (by decide), encodedA_of_opcodeRow (fun _ _ => rfl) (by decide),
    fun a s => ⟨fun hkey => ⟨?_, ?_⟩, fun hkey ha => ?_, exec_kwread_of_legal, fun hkey ha => ?_, exec_rkread_of_legal⟩⟩
  · exact exec_indexed_of_needsMissing rfl (by simp [needsMissing, hkey])
  · exact exec_indexed_of_needsMissing rfl (by simp [needsMissing, hkey])
  · exact exec_indexed_of_indexBeyond rfl (by simp [needsMissing, hkey]) (by simpa [indexBeyond] using ha)
  · exact exec_indexed_of_indexBeyond rfl (by simp [needsMissing, hkey]) (by simpa [indexBeyond] using ha)

/-! ### A round key is four words (R121) -/

theorem toNat_four_mul_add {a c : Byte} (ha : a.toNat ≤ 14) (hc : c.toNat < 4) :
    (4 * a + c).toNat = 4 * a.toNat + c.toNat := by
  bv_omega

/-- `KWREAD` of word `4a + c` returns column `c` of round key `a`. -/
theorem exec_kwread_column {s : State} {a c : Byte} (hkey : s.keyValid = true) (hnr : s.nr.toNat ≤ 14)
    (ha : a.toNat ≤ s.nr.toNat) (hc : c.toNat < 4) :
    exec (.kwread (4 * a + c)) s =
      .next ((s.setDout (wordBytes (wordAt s.w (4 * a.toNat + c.toNat)))).setResp 0x00) := by
  have hindex := toNat_four_mul_add (ha.trans hnr) hc
  rw [← hindex]
  exact exec_kwread_of_legal hkey (by omega)

/-- Settles O22: the bytes of a round key are those of its four columns, and each column is one `KWREAD`. -/
theorem roundKeyReadIsFourWordReads : Obligations.RoundKeyReadIsFourWordReads := by
  refine ⟨fun w r c j hc hj => byteAt_roundKey w r c j hc hj, fun s a hkey hnr ha => ?_⟩
  have column {c : Byte} (hc : c.toNat < 4) := exec_kwread_column hkey hnr ha hc
  exact ⟨_, _, _, _, _, exec_rkread_of_legal hkey ha, by simpa using column (c := 0) (by decide), column (by decide),
    column (by decide), column (by decide), rfl, rfl, rfl⟩

end Sys2Proof.Machine
end

section
/-! The round transforms (43_round_transforms.md). A columnwise stage is one function on each of the four columns, so what
it does to a byte, and what undoes it, is said of one column. The columns of `MixColumns` and of `InvMixColumns` are
products with circulant matrices over GF(2^8); such matrices multiply to circulant ones, and these two to the unit matrix. -/

namespace Sys2Proof.Machine

/-! ### Stages that act on each column -/

/-- The stage that replaces each column `x` by `f x`. -/
def mapColumns (f : Word → Word) (s : Block) : Block := ⟨f s.c0, f s.c1, f s.c2, f s.c3⟩

theorem subBytes_eq_mapColumns : subBytes = mapColumns subWord := rfl

theorem invSubBytes_eq_mapColumns : invSubBytes = mapColumns invSubWord := rfl

theorem mixColumns_eq_mapColumns : mixColumns = mapColumns mixColumn := rfl

theorem invMixColumns_eq_mapColumns : invMixColumns = mapColumns invMixColumn := rfl

theorem mapColumns_leftInverse {f g : Word → Word} (h : Function.LeftInverse g f) :
    Function.LeftInverse (mapColumns g) (mapColumns f) := fun s => by
  simp only [mapColumns, h _]

/-- Column `c` of a block, read byte by byte (R22). -/
def columnAt (s : Block) (c : Nat) : Word :=
  ⟨byteAt s (4 * c), byteAt s (4 * c + 1), byteAt s (4 * c + 2), byteAt s (4 * c + 3)⟩

theorem columnAt_mapColumns (f : Word → Word) (s : Block) {c : Nat} (hc : c < 4) :
    columnAt (mapColumns f s) c = f (columnAt s c) := by
  interval_cases c <;> rfl

theorem columnAt_eq_iff {s : Block} {c : Nat} {x : Word} :
    columnAt s c = x ↔ byteAt s (4 * c) = x.b0 ∧ byteAt s (4 * c + 1) = x.b1 ∧ byteAt s (4 * c + 2) = x.b2 ∧
      byteAt s (4 * c + 3) = x.b3 := by
  cases x
  simp [columnAt]

/-! ### `SubBytes` and `InvSubBytes` (R135, R139) -/

theorem byteAt_eq_getElem (s : Block) {i : Nat} (hi : i < 16) :
    byteAt s i = (blockBytes s)[i]'(by rwa [blockBytes_length]) :=
  List.getD_eq_getElem _ _ _

/-- Where the bytes of `t` are those of `s` under `f`, this holds at each index. -/
theorem byteAt_of_blockBytes_eq_map {s t : Block} {f : Byte → Byte} (h : blockBytes t = (blockBytes s).map f) {i : Nat}
    (hi : i < 16) : byteAt t i = f (byteAt s i) := by
  rw [byteAt_eq_getElem t hi, byteAt_eq_getElem s hi, List.getElem_of_eq h, List.getElem_map]

theorem invSubWord_leftInverse : Function.LeftInverse invSubWord subWord := fun x => by
  simp only [invSubWord, subWord, invSboxTable_sboxTable]

theorem subWord_leftInverse : Function.LeftInverse subWord invSubWord := fun x => by
  simp only [invSubWord, subWord, sboxTable_invSboxTable]

theorem invSubBytes_subBytes (s : Block) : invSubBytes (subBytes s) = s := by
  rw [invSubBytes_eq_mapColumns, subBytes_eq_mapColumns]
  exact mapColumns_leftInverse invSubWord_leftInverse s

theorem subBytes_invSubBytes (s : Block) : subBytes (invSubBytes s) = s := by
  rw [subBytes_eq_mapColumns, invSubBytes_eq_mapColumns]
  exact mapColumns_leftInverse subWord_leftInverse s

/-- Settles O23: the bytes of each stage are the entries of its table, and the tables undo each other. -/
theorem subBytesLooksUpEveryByte : Obligations.SubBytesLooksUpEveryByte := fun s =>
  ⟨fun _ hi => byteAt_of_blockBytes_eq_map rfl hi, fun _ hi => byteAt_of_blockBytes_eq_map rfl hi,
    invSubBytes_subBytes s, subBytes_invSubBytes s⟩

/-! ### `ShiftRows` and `InvShiftRows` (R136, R140) -/

theorem byteAt_shiftRows (s : Block) {i : Nat} (hi : i < 16) :
    byteAt (shiftRows s) i = byteAt s (i % 4 + 4 * ((i / 4 + i % 4) % 4)) := by
  interval_cases i <;> rfl

theorem byteAt_invShiftRows (s : Block) {i : Nat} (hi : i < 16) :
    byteAt (invShiftRows s) i = byteAt s (i % 4 + 4 * (((i / 4 : Int) - (i % 4 : Int)) % 4).toNat) := by
  interval_cases i <;> rfl

theorem invShiftRows_shiftRows (s : Block) : invShiftRows (shiftRows s) = s := rfl

/-- Settles O24: each of the sixteen bytes stands where the formula says. -/
theorem shiftRowsRotatesEveryRow : Obligations.ShiftRowsRotatesEveryRow := fun s =>
  ⟨fun _ hi => byteAt_shiftRows s hi, fun _ hi => byteAt_invShiftRows s hi, invShiftRows_shiftRows s⟩

/-! ### `MixColumns` and `InvMixColumns` (R137, R141) -/

/-- The product of a column with the circulant matrix whose first row is `m`. -/
def circulant (m a : Word) : Word :=
  ⟨gmul a.b0 m.b0 ^^^ gmul a.b1 m.b1 ^^^ gmul a.b2 m.b2 ^^^ gmul a.b3 m.b3,
   gmul a.b0 m.b3 ^^^ gmul a.b1 m.b0 ^^^ gmul a.b2 m.b1 ^^^ gmul a.b3 m.b2,
   gmul a.b0 m.b2 ^^^ gmul a.b1 m.b3 ^^^ gmul a.b2 m.b0 ^^^ gmul a.b3 m.b1,
   gmul a.b0 m.b1 ^^^ gmul a.b1 m.b2 ^^^ gmul a.b2 m.b3 ^^^ gmul a.b3 m.b0⟩

/-- The first row of the product of two circulant matrices. -/
def circulantMul (m n : Word) : Word :=
  ⟨gmul m.b0 n.b0 ^^^ gmul m.b3 n.b1 ^^^ gmul m.b2 n.b2 ^^^ gmul m.b1 n.b3,
   gmul m.b1 n.b0 ^^^ gmul m.b0 n.b1 ^^^ gmul m.b3 n.b2 ^^^ gmul m.b2 n.b3,
   gmul m.b2 n.b0 ^^^ gmul m.b1 n.b1 ^^^ gmul m.b0 n.b2 ^^^ gmul m.b3 n.b3,
   gmul m.b3 n.b0 ^^^ gmul m.b2 n.b1 ^^^ gmul m.b1 n.b2 ^^^ gmul m.b0 n.b3⟩

theorem circulant_circulant (m n a : Word) : circulant n (circulant m a) = circulant (circulantMul m n) a := by
  simp only [circulant, circulantMul, gmul_xor_left, gmul_xor_right, gmul_assoc, Word.mk.injEq]
  refine ⟨?_, ?_, ?_, ?_⟩ <;> ac_rfl

theorem circulant_unit (a : Word) : circulant ⟨1, 0, 0, 0⟩ a = a := by
  simp only [circulant, gmul_one, gmul_zero]
  simp

theorem circulant_leftInverse {m n : Word} (h : circulantMul m n = ⟨1, 0, 0, 0⟩) :
    Function.LeftInverse (circulant n) (circulant m) := fun a => by
  rw [circulant_circulant, h, circulant_unit]

/-- The named multipliers of the two matrices as products (R97). -/
theorem gmul_named_multiplier (a : Byte) : gmul a 2 = mul2 a ∧ gmul a 3 = mul3 a ∧ gmul a 9 = mul9 a ∧
    gmul a 11 = mul11 a ∧ gmul a 13 = mul13 a ∧ gmul a 14 = mul14 a :=
  (gmulSumsShiftedMultiples.2 a).2

theorem mixColumn_eq_circulant : mixColumn = circulant ⟨2, 3, 1, 1⟩ := by
  funext a
  simp only [mixColumn, circulant, gmul_one, gmul_named_multiplier]

theorem invMixColumn_eq_circulant : invMixColumn = circulant ⟨14, 11, 13, 9⟩ := by
  funext a
  simp only [invMixColumn, circulant, gmul_named_multiplier]

theorem invMixColumn_leftInverse : Function.LeftInverse invMixColumn mixColumn := by
  rw [mixColumn_eq_circulant, invMixColumn_eq_circulant]
  exact circulant_leftInverse (by decide)

theorem mixColumn_leftInverse : Function.LeftInverse mixColumn invMixColumn := by
  rw [mixColumn_eq_circulant, invMixColumn_eq_circulant]
  exact circulant_leftInverse (by decide)

theorem invMixColumns_mixColumns (s : Block) : invMixColumns (mixColumns s) = s := by
  rw [invMixColumns_eq_mapColumns, mixColumns_eq_mapColumns]
  exact mapColumns_leftInverse invMixColumn_leftInverse s

theorem mixColumns_invMixColumns (s : Block) : mixColumns (invMixColumns s) = s := by
  rw [mixColumns_eq_mapColumns, invMixColumns_eq_mapColumns]
  exact mapColumns_leftInverse mixColumn_leftInverse s

/-- Settles O25: a column of the result is the product with that column. -/
theorem mixColumnsMultipliesEveryColumn : Obligations.MixColumnsMultipliesEveryColumn := by
  rintro s c hc _ _ _ _ rfl rfl rfl rfl
  rw [mixColumns_eq_mapColumns]
  exact columnAt_eq_iff.mp (columnAt_mapColumns mixColumn s hc)

/-- Settles O26: the two circulant matrices are inverse to each other, whichever comes first. -/
theorem invMixColumnsUndoesMixColumns : Obligations.InvMixColumnsUndoesMixColumns := by
  refine ⟨?_, fun s => ⟨invMixColumns_mixColumns s, mixColumns_invMixColumns s⟩⟩
  rintro s c hc _ _ _ _ rfl rfl rfl rfl
  rw [invMixColumns_eq_mapColumns]
  exact columnAt_eq_iff.mp (columnAt_mapColumns invMixColumn s hc)

/-! ### `AddRoundKey` and the rounds (R138, R142-R145) -/

theorem byteAt_addRoundKey (s k : Block) {i : Nat} (hi : i < 16) :
    byteAt (addRoundKey s k) i = byteAt s i ^^^ byteAt k i := by
  have hbytes : blockBytes (addRoundKey s k) = List.zipWith (· ^^^ ·) (blockBytes s) (blockBytes k) := rfl
  rw [byteAt_eq_getElem _ hi, byteAt_eq_getElem s hi, byteAt_eq_getElem k hi, List.getElem_of_eq hbytes,
    List.getElem_zipWith]

theorem addRoundKey_addRoundKey (s k : Block) : addRoundKey (addRoundKey s k) k = s := Block.xor_xor_cancel s k

theorem iRound_fRound (s k : Block) : iRound (fRound s k) k = s := by
  rw [iRound, fRound, addRoundKey_addRoundKey, invMixColumns_mixColumns, invShiftRows_shiftRows, invSubBytes_subBytes]

theorem iFinal_fFinal (s k : Block) : iFinal (fFinal s k) k = s := by
  rw [iFinal, fFinal, addRoundKey_addRoundKey, invShiftRows_shiftRows, invSubBytes_subBytes]

/-- Settles O27: an inverse round undoes the stages of its forward round from the last one back. -/
theorem roundsComposeAndInvert : Obligations.RoundsComposeAndInvert := fun s k =>
  ⟨fun _ hi => byteAt_addRoundKey s k hi, addRoundKey_addRoundKey s k, rfl, rfl, rfl, rfl, iRound_fRound s k,
    iFinal_fFinal s k⟩

/-! ### `STLOAD`, `STREAD` and the stage commands (R146-R150, R152-R154) -/

theorem exec_stload_of_bad_length {s : State} (h : s.din.length ≠ 16) : exec .stload s = .next (s.setResp 0x02) :=
  exec_of_firstError_eq_some (e := .invalidBlockLength) (by simp [firstError, errorsOf, errorApplies, h])

theorem exec_stload_of_length {s : State} (h : s.din.length = 16) :
    exec .stload s = .next ((s.setState (blockOfBytes s.din)).setResp 0x00) :=
  exec_of_firstError_eq_none (by simp [firstError, errorsOf, errorApplies, h])

/-- Settles O28: the block of sixteen bytes keeps their order, and so do the bytes of a block. -/
theorem stateLoadAndReadKeepByteOrder : Obligations.StateLoadAndReadKeepByteOrder :=
  ⟨encodedZ_of_opcodeRow (fun _ _ => rfl) (by decide), encodedZ_of_opcodeRow (fun _ _ => rfl) (by decide),
    fun _ h => exec_stload_of_bad_length h,
    fun s h => ⟨blockOfBytes s.din, exec_stload_of_length h, fun i hi => byteAt_blockOfBytes s.din i hi⟩,
    fun s => ⟨blockBytes s.state, rfl, blockBytes_length s.state, fun _ _ => rfl⟩⟩

/-- Settles O29: the six rows of the opcode map, and one write of `STATE` before `RESP`. -/
theorem stageCommandsTransformState : Obligations.StageCommandsTransformState :=
  ⟨encodedZ_of_opcodeRow (fun _ _ => rfl) (by decide), encodedZ_of_opcodeRow (fun _ _ => rfl) (by decide),
    encodedZ_of_opcodeRow (fun _ _ => rfl) (by decide), encodedZ_of_opcodeRow (fun _ _ => rfl) (by decide),
    encodedZ_of_opcodeRow (fun _ _ => rfl) (by decide), encodedZ_of_opcodeRow (fun _ _ => rfl) (by decide),
    fun _ => ⟨rfl, rfl, rfl, rfl, rfl, rfl⟩⟩

/-! ### The commands with a round-key index (R151, R155-R158) -/

/-- The five commands with a round-key index `a`, each with what it makes of `STATE` and that round key. -/
def roundKeyCommands (a : Byte) : List (Instr × (Block → Block → Block)) :=
  [(.addrk a, addRoundKey), (.fround a, fRound), (.ffinal a, fFinal), (.iround a, iRound), (.ifinal a, iFinal)]

theorem forall_mem_roundKeyCommands {a : Byte} {P : Instr → (Block → Block → Block) → Prop}
    (h : ∀ {i f}, (i, f) ∈ roundKeyCommands a → P i f) :
    P (.addrk a) addRoundKey ∧ P (.fround a) fRound ∧ P (.ffinal a) fFinal ∧ P (.iround a) iRound ∧
      P (.ifinal a) iFinal := by
  have hpairs : ∀ p ∈ roundKeyCommands a, P p.1 p.2 := fun _ hp => h hp
  simpa [roundKeyCommands] using hpairs

section
variable {i : Instr} {f : Block → Block → Block} {a : Byte} {s : State} (hi : (i, f) ∈ roundKeyCommands a)
include hi

/-- The five commands share their errors and the conditions of these, and each commits its own transform. -/
theorem roundKeyCommand_spec : errorsOf i = [.notReady, .operandRange] ∧ needsMissing i s = !s.keyValid ∧
    indexBeyond i s = decide (s.nr.toNat < a.toNat) ∧
    committed s i = s.setState (f s.state (roundKey s.w a.toNat)) := by
  simp only [roundKeyCommands, List.mem_cons, List.not_mem_nil, or_false, Prod.mk.injEq] at hi
  obtain ⟨rfl, rfl⟩ | ⟨rfl, rfl⟩ | ⟨rfl, rfl⟩ | ⟨rfl, rfl⟩ | ⟨rfl, rfl⟩ := hi <;> exact ⟨rfl, rfl, rfl, rfl⟩

theorem exec_roundKeyCommand_of_no_key (hkey : s.keyValid = false) : exec i s = .next (s.setResp 0x07) := by
  obtain ⟨herr, hneeds, -⟩ := roundKeyCommand_spec (s := s) hi
  exact exec_indexed_of_needsMissing herr (by simp [hneeds, hkey])

theorem exec_roundKeyCommand_of_index_beyond (hkey : s.keyValid = true) (ha : s.nr.toNat < a.toNat) :
    exec i s = .next (s.setResp 0x09) := by
  obtain ⟨herr, hneeds, hindex, -⟩ := roundKeyCommand_spec (s := s) hi
  exact exec_indexed_of_indexBeyond herr (by simp [hneeds, hkey]) (by simp [hindex, ha])

theorem exec_roundKeyCommand_of_legal (hkey : s.keyValid = true) (ha : a.toNat ≤ s.nr.toNat) :
    exec i s = .next ((s.setState (f s.state (roundKey s.w a.toNat))).setResp 0x00) := by
  obtain ⟨herr, hneeds, hindex, hcommitted⟩ := roundKeyCommand_spec (s := s) hi
  rw [← hcommitted]
  exact exec_indexed_of_index_legal herr (by simp [hneeds, hkey]) (by simp [hindex, ha])

end

/-- Settles O30: the five commands share their errors; without one, each commits its own transform of `STATE`. -/
theorem roundKeyCommandsTransformState : Obligations.RoundKeyCommandsTransformState := by
  refine ⟨encodedA_of_opcodeRow (fun _ _ => rfl) (by decide), encodedA_of_opcodeRow (fun _ _ => rfl) (by decide),
    encodedA_of_opcodeRow (fun _ _ => rfl) (by decide), encodedA_of_opcodeRow (fun _ _ => rfl) (by decide),
    encodedA_of_opcodeRow (fun _ _ => rfl) (by decide), fun a s => ?_⟩
  have hmem (i : Instr) (hi : i ∈ (roundKeyCommands a).map Prod.fst) : ∃ f, (i, f) ∈ roundKeyCommands a := by
    simpa using hi
  refine ⟨fun hkey i hi => ?_, fun hkey ha i hi => ?_, fun hkey ha => ?_⟩
  · obtain ⟨f, hf⟩ := hmem i hi
    exact exec_roundKeyCommand_of_no_key hf hkey
  · obtain ⟨f, hf⟩ := hmem i hi
    exact exec_roundKeyCommand_of_index_beyond hf hkey ha
  · exact forall_mem_roundKeyCommands fun hi => exec_roundKeyCommand_of_legal hi hkey ha

/-! ### Sequences of commands that transform `STATE` (R149, R151, R157, R158) -/

/-- In every state that differs from `s` in `STATE` and `RESP` at most, the command `i` succeeds, replaces `STATE` by its
image under `f`, and writes nothing else but `RESP`. -/
def TransformsState (s : State) (i : Instr) (f : Block → Block) : Prop :=
  ∀ (x : Block) (resp : Byte), exec i ((s.setState x).setResp resp) = .next ((s.setState (f x)).setResp 0x00)

theorem runCommands_cons_of_transformsState {s : State} {i : Instr} {f : Block → Block} (h : TransformsState s i f)
    (is : List Instr) (x : Block) (resp : Byte) :
    runCommands (i :: is) ((s.setState x).setResp resp) = runCommands is ((s.setState (f x)).setResp 0x00) := by
  rw [runCommands, h x resp]
  exact if_pos rfl

/-- A command and then one with the inverse transform change `RESP` alone. -/
theorem runCommands_inverse_pair {s : State} {i j : Instr} {f g : Block → Block} (hi : TransformsState s i f)
    (hj : TransformsState s j g) (hinv : g (f s.state) = s.state) :
    runCommands [i, j] s = some { s with resp := 0x00 } := by
  calc runCommands [i, j] ((s.setState s.state).setResp s.resp)
      = runCommands [j] ((s.setState (f s.state)).setResp 0x00) := runCommands_cons_of_transformsState hi _ _ _
    _ = runCommands [] ((s.setState (g (f s.state))).setResp 0x00) := runCommands_cons_of_transformsState hj _ _ _
    _ = some { s with resp := 0x00 } := by rw [hinv]; rfl

/-- No such command changes the key registers, so one that is legal in `s` stays so. -/
theorem transformsState_roundKeyCommand {s : State} {a : Byte} {i : Instr} {f : Block → Block → Block}
    (hi : (i, f) ∈ roundKeyCommands a) (hkey : s.keyValid = true) (ha : a.toNat ≤ s.nr.toNat) :
    TransformsState s i (f · (roundKey s.w a.toNat)) := fun x resp =>
  exec_roundKeyCommand_of_legal (s := (s.setState x).setResp resp) hi hkey ha

/-- Four rotations of a row by the same number of places are none. -/
theorem shiftRows_four (s : Block) : shiftRows (shiftRows (shiftRows (shiftRows s))) = s := rfl

theorem runCommands_shiftrows_four (s : State) :
    runCommands [.shiftrows, .shiftrows, .shiftrows, .shiftrows] s = some { s with resp := 0x00 } := by
  have hshift : TransformsState s .shiftrows shiftRows := fun _ _ => rfl
  calc runCommands [.shiftrows, .shiftrows, .shiftrows, .shiftrows] ((s.setState s.state).setResp s.resp)
      = some ((s.setState (shiftRows (shiftRows (shiftRows (shiftRows s.state))))).setResp 0x00) := by
        rw [runCommands_cons_of_transformsState hshift, runCommands_cons_of_transformsState hshift,
          runCommands_cons_of_transformsState hshift, runCommands_cons_of_transformsState hshift, runCommands]
    _ = some { s with resp := 0x00 } := by rw [shiftRows_four]; rfl

/-- Settles O31: each second command transforms `STATE` by the inverse of the first one's transform. -/
theorem inverseCommandsRestoreState : Obligations.InverseCommandsRestoreState := by
  refine ⟨fun s => ⟨?_, ?_, ?_, runCommands_shiftrows_four s⟩, fun a s hkey ha => ?_⟩
  · exact runCommands_inverse_pair (fun _ _ => rfl) (fun _ _ => rfl) (invSubBytes_subBytes s.state)
  · exact runCommands_inverse_pair (fun _ _ => rfl) (fun _ _ => rfl) (invShiftRows_shiftRows s.state)
  · exact runCommands_inverse_pair (fun _ _ => rfl) (fun _ _ => rfl) (invMixColumns_mixColumns s.state)
  · obtain ⟨haddrk, hfround, hffinal, hiround, hifinal⟩ :=
      forall_mem_roundKeyCommands fun hi => transformsState_roundKeyCommand hi hkey ha
    exact ⟨runCommands_inverse_pair haddrk haddrk (addRoundKey_addRoundKey _ _),
      runCommands_inverse_pair hfround hiround (iRound_fRound _ _),
      runCommands_inverse_pair hffinal hifinal (iFinal_fFinal _ _)⟩

end Sys2Proof.Machine
end

section
/-! The cipher engine (44_cipher_engine.md): what `Encrypt`, `Decrypt` and `PartialEncrypt` are, that the first two undo
each other, and the three commands that run them on the block in `DIN`. -/

namespace Sys2Proof.Machine

/-! ### The rounds as a sequence of states (R165-R167) -/

theorem forwardRounds_succ (w : Vector Word 60) (n : Nat) (x : Block) :
    forwardRounds w (n + 1) x = fRound (forwardRounds w n x) (roundKey w (n + 1)) := rfl

theorem inverseRounds_succ (w : Vector Word 60) (n : Nat) (y : Block) :
    inverseRounds w (n + 1) y = inverseRounds w n (iRound y (roundKey w (n + 1))) := rfl

theorem forwardRounds_eq_of_sequence {w : Vector Word 60} {n : Nat} {st : Nat → Block}
    (hst : ∀ r, 1 ≤ r → r ≤ n → st r = fRound (st (r - 1)) (roundKey w r)) : forwardRounds w n (st 0) = st n := by
  induction n with
  | zero => rfl
  | succ n ih =>
    have hrounds : forwardRounds w n (st 0) = st n := ih fun r hlo hhi => hst r hlo (by omega)
    rw [forwardRounds_succ, hrounds, hst (n + 1) (by omega) le_rfl, Nat.add_sub_cancel]

theorem inverseRounds_eq_of_sequence {w : Vector Word 60} {n : Nat} {st : Nat → Block}
    (hst : ∀ r, 1 ≤ r → r ≤ n → st (r - 1) = iRound (st r) (roundKey w r)) : inverseRounds w n (st n) = st 0 := by
  induction n with
  | zero => rfl
  | succ n ih =>
    have hfirst : st n = iRound (st (n + 1)) (roundKey w (n + 1)) := hst (n + 1) (by omega) le_rfl
    rw [inverseRounds_succ, ← hfirst, ih fun r hlo hhi => hst r hlo (by omega)]

/-- Settles O32: the states of the sequence are those of the rounds, by induction on the number of rounds. -/
theorem encryptIsTheRoundSequence : Obligations.EncryptIsTheRoundSequence := by
  intro w nr x st _ hinit hst
  rw [encrypt, ← hinit, forwardRounds_eq_of_sequence hst]

theorem partialEncrypt_of_le {w : Vector Word 60} {nr n : Nat} (h : nr ≤ n) (x : Block) :
    partialEncrypt w nr n x = encrypt w nr x := if_pos h

theorem partialEncrypt_of_lt {w : Vector Word 60} {nr n : Nat} (h : n < nr) (x : Block) :
    partialEncrypt w nr n x = forwardRounds w n (addRoundKey x (roundKey w 0)) := if_neg (by omega)

/-- Settles O34: below `Nr` both sides of each equation are a number of full rounds. -/
theorem partialEncryptIsAPrefix : Obligations.PartialEncryptIsAPrefix := by
  refine fun w nr x => ⟨fun n h => partialEncrypt_of_le h x, fun h => partialEncrypt_of_lt h x, fun n h => ?_,
    fun h => ?_⟩
  · rw [partialEncrypt_of_lt h, partialEncrypt_of_lt (by omega), forwardRounds_succ]
  · rw [partialEncrypt_of_lt (by omega), encrypt]

/-! ### `Decrypt` and `Encrypt` undo each other (R166) -/

theorem shiftRows_invShiftRows (s : Block) : shiftRows (invShiftRows s) = s := rfl

theorem fRound_iRound (s k : Block) : fRound (iRound s k) k = s := by
  rw [fRound, iRound, subBytes_invSubBytes, shiftRows_invShiftRows, mixColumns_invMixColumns, addRoundKey_addRoundKey]

theorem fFinal_iFinal (s k : Block) : fFinal (iFinal s k) k = s := by
  rw [fFinal, iFinal, subBytes_invSubBytes, shiftRows_invShiftRows, addRoundKey_addRoundKey]

theorem inverseRounds_forwardRounds (w : Vector Word 60) (n : Nat) (x : Block) :
    inverseRounds w n (forwardRounds w n x) = x := by
  induction n with
  | zero => rfl
  | succ n ih => rw [forwardRounds_succ, inverseRounds_succ, iRound_fRound, ih]

theorem forwardRounds_inverseRounds (w : Vector Word 60) (n : Nat) (y : Block) :
    forwardRounds w n (inverseRounds w n y) = y := by
  induction n generalizing y with
  | zero => rfl
  | succ n ih => rw [inverseRounds_succ, forwardRounds_succ, ih, fRound_iRound]

theorem decrypt_encrypt (w : Vector Word 60) (nr : Nat) (x : Block) : decrypt w nr (encrypt w nr x) = x := by
  rw [decrypt, encrypt, iFinal_fFinal, inverseRounds_forwardRounds, addRoundKey_addRoundKey]

theorem encrypt_decrypt (w : Vector Word 60) (nr : Nat) (y : Block) : encrypt w nr (decrypt w nr y) = y := by
  rw [encrypt, decrypt, addRoundKey_addRoundKey, forwardRounds_inverseRounds, fFinal_iFinal]

/-- Settles O33: the rounds of each direction undo those of the other, the last one first. -/
theorem decryptInvertsEncrypt : Obligations.DecryptInvertsEncrypt := by
  refine ⟨fun w nr y st _ hinit hst => ?_, fun w nr x => ⟨decrypt_encrypt w nr x, encrypt_decrypt w nr x⟩⟩
  rw [decrypt, ← hinit, inverseRounds_eq_of_sequence hst]

/-! ### The block commands (R168-R172) -/

section
variable {s : State}

theorem runEngine_of_no_key (hkey : s.keyValid = false) (engine : Block → Block) :
    runEngine s engine = .next { s with resp := 0x07 } := by
  simpa [hkey] using runEngine_cases s engine

theorem runEngine_of_bad_length (hkey : s.keyValid = true) (hdin : s.din.length ≠ 16) (engine : Block → Block) :
    runEngine s engine = .next { s with resp := 0x02 } := by
  simpa [hkey, hdin] using runEngine_cases s engine

theorem runEngine_of_length (hkey : s.keyValid = true) (hdin : s.din.length = 16) (engine : Block → Block) :
    runEngine s engine = .next { s with
      state := engine (blockOfBytes s.din), dout := blockBytes (engine (blockOfBytes s.din)), resp := 0x00 } := by
  simpa [hkey, hdin] using runEngine_cases s engine

end

/-- With the `W` and the `NR` of `s`, whatever else the state holds, the command `i` runs `engine` (R172). -/
def RunsEngine (s : State) (i : Instr) (engine : Block → Block) : Prop :=
  ∀ t : State, t.w = s.w → t.nr = s.nr → exec i t = runEngine t engine

theorem runsEngine_encb (s : State) : RunsEngine s .encb (encrypt s.w s.nr.toNat) := fun t hw hnr => by
  rw [← hw, ← hnr]; rfl

theorem runsEngine_decb (s : State) : RunsEngine s .decb (decrypt s.w s.nr.toNat) := fun t hw hnr => by
  rw [← hw, ← hnr]; rfl

theorem runsEngine_pencb (a : Byte) (s : State) : RunsEngine s (.pencb a) (partialEncrypt s.w s.nr.toNat a.toNat) :=
  fun t hw hnr => by rw [← hw, ← hnr]; rfl

theorem exists_runsEngine {i : Instr} {a : Byte} (hi : i ∈ [Instr.encb, .decb, .pencb a]) (s : State) :
    ∃ engine, RunsEngine s i engine := by
  simp only [List.mem_cons, List.not_mem_nil, or_false] at hi
  obtain rfl | rfl | rfl := hi
  · exact ⟨_, runsEngine_encb s⟩
  · exact ⟨_, runsEngine_decb s⟩
  · exact ⟨_, runsEngine_pencb a s⟩

namespace RunsEngine
variable {s : State} {i : Instr} {engine : Block → Block}

theorem exec_eq (h : RunsEngine s i engine) : exec i s = runEngine s engine := h s rfl rfl

theorem exec_of_length {t : State} (h : RunsEngine s i engine) (hw : t.w = s.w) (hnr : t.nr = s.nr)
    (hkey : t.keyValid = true) (hdin : t.din.length = 16) :
    exec i t = .next { t with
      state := engine (blockOfBytes t.din), dout := blockBytes (engine (blockOfBytes t.din)), resp := 0x00 } :=
  (h t hw hnr).trans (runEngine_of_length hkey hdin engine)

/-- A command that runs the inverse of another one's engine returns, from that one's output, the block it was given. -/
theorem exec_inverse_pair {j : Instr} {inverse : Block → Block} (hi : RunsEngine s i engine)
    (hj : RunsEngine s j inverse) (hinv : Function.LeftInverse inverse engine) (hkey : s.keyValid = true)
    (hdin : s.din.length = 16) :
    ∃ t u : State, exec i s = .next t ∧ exec j { t with din := t.dout } = .next u ∧ u.resp = 0x00 ∧ u.dout = s.din := by
  refine ⟨_, _, hi.exec_of_length rfl rfl hkey hdin, hj.exec_of_length rfl rfl hkey (blockBytes_length _), rfl, ?_⟩
  rw [blockOfBytes_blockBytes, hinv, blockBytes_blockOfBytes s.din hdin]

end RunsEngine

/-- Settles O35: each command runs its own engine on the block whose bytes are those of `DIN`. -/
theorem blockCommandsReturnEngineOutput : Obligations.BlockCommandsReturnEngineOutput := by
  refine ⟨encodedZ_of_opcodeRow (fun _ _ => rfl) (by decide), encodedZ_of_opcodeRow (fun _ _ => rfl) (by decide),
    encodedA_of_opcodeRow (fun _ _ => rfl) (by decide), fun a s => ⟨fun hkey i hi => ?_, fun hkey hdin i hi => ?_, ?_⟩⟩
  · obtain ⟨engine, hengine⟩ := exists_runsEngine hi s
    exact hengine.exec_eq.trans (runEngine_of_no_key hkey engine)
  · obtain ⟨engine, hengine⟩ := exists_runsEngine hi s
    exact hengine.exec_eq.trans (runEngine_of_bad_length hkey hdin engine)
  · rintro hkey hdin x _ _ _ hx rfl rfl rfl
    obtain rfl : x = blockOfBytes s.din :=
      block_ext_byteAt fun i hi => (hx i hi).trans (byteAt_blockOfBytes s.din i hi).symm
    exact ⟨(runsEngine_encb s).exec_of_length rfl rfl hkey hdin, (runsEngine_decb s).exec_of_length rfl rfl hkey hdin,
      (runsEngine_pencb a s).exec_of_length rfl rfl hkey hdin⟩

/-- Settles O36: neither command changes the key registers, so the second runs the inverse of the first one's engine. -/
theorem blockRoundTripThroughCommands : Obligations.BlockRoundTripThroughCommands := fun s hkey hdin =>
  ⟨(runsEngine_encb s).exec_inverse_pair (runsEngine_decb s) (decrypt_encrypt s.w s.nr.toNat) hkey hdin,
    (runsEngine_decb s).exec_inverse_pair (runsEngine_encb s) (encrypt_decrypt s.w s.nr.toNat) hkey hdin⟩

end Sys2Proof.Machine
end

section
/-! The padding controller (45_padding.md): `pad` ends in a byte that counts what it appended, `unpad` reads that byte
alone, so it undoes `pad`; and the two commands that run them on `DIN`. -/

namespace Sys2Proof.Machine

/-! ### What `unpad` answers, by the last byte (R181) -/

section
variable {y : List Byte} {n : Byte} (hlast : y.getLast? = some n)
include hlast

theorem unpadBytes_of_bad_count (h : n.toNat < 1 ∨ 16 < n.toNat ∨ y.length < n.toNat) : unpadBytes y = none := by
  simp only [unpadBytes, hlast, if_pos h]

theorem unpadBytes_of_count (hlo : 1 ≤ n.toNat) (hhi : n.toNat ≤ 16) (hlen : n.toNat ≤ y.length) :
    unpadBytes y = some (y.take (y.length - n.toNat)) := by
  have hgood : ¬ (n.toNat < 1 ∨ 16 < n.toNat ∨ y.length < n.toNat) := by omega
  simp only [unpadBytes, hlast, if_neg hgood]

end

/-! ### `unpad` undoes `pad` (R184) -/

theorem padCount_toNat (len : Nat) : (BitVec.ofNat 8 (padCount len)).toNat = padCount len := by
  obtain ⟨-, hhi⟩ := padCount_range len
  rw [BitVec.toNat_ofNat, Nat.mod_eq_of_lt (by omega)]

/-- `pad` ends in the byte that says how many were appended. -/
theorem padBytes_getLast? (x : List Byte) :
    (padBytes x).getLast? = some (BitVec.ofNat 8 (padCount x.length)) := by
  have hpos : padCount x.length ≠ 0 := Nat.one_le_iff_ne_zero.mp (padCount_range x.length).1
  simp [padBytes, List.getLast?_append, List.getLast?_replicate, hpos]

theorem padBytes_length_sub_padCount (x : List Byte) : (padBytes x).length - padCount x.length = x.length := by
  simp [padBytes]

theorem padBytes_take_length (x : List Byte) : (padBytes x).take x.length = x := List.take_left

theorem unpadBytes_padBytes (x : List Byte) : unpadBytes (padBytes x) = some x := by
  obtain ⟨hlo, hhi⟩ := padCount_range x.length
  have hlen : padCount x.length ≤ (padBytes x).length := by simp [padBytes]
  have hstrip := unpadBytes_of_count (padBytes_getLast? x)
  rw [padCount_toNat, padBytes_length_sub_padCount, padBytes_take_length] at hstrip
  exact hstrip hlo hhi hlen

/-- Settles O40: `unpad` strips what the last byte of `pad` counts. R185's sequence 0102, which `pad` never produces, is
stripped to nothing, and `pad` makes of that a whole block. -/
theorem unpadUndoesPad : Obligations.UnpadUndoesPad :=
  ⟨unpadBytes_padBytes, [0x01, 0x02], [], by decide, by decide⟩

/-! ### The padding commands (R182, R183) -/

theorem exec_pad (s : State) : exec .pad s = .next { s with dout := padBytes s.din, resp := 0x00 } := rfl

theorem exec_unpad_of_none {s : State} (h : unpadBytes s.din = none) : exec .unpad s = .next { s with resp := 0x04 } := by
  simp [exec, execUnpad, h, Error.code]

theorem exec_unpad_of_some {s : State} {r : List Byte} (h : unpadBytes s.din = some r) :
    exec .unpad s = .next { s with dout := r, resp := 0x00 } := by
  simp [exec, execUnpad, h, State.setDout]

/-- Settles O39: the last byte of `DIN` decides what `unpad` answers, and that what the command does. -/
theorem unpadReadsLastByteOnly : Obligations.UnpadReadsLastByteOnly := by
  refine ⟨encodedZ_of_opcodeRow (fun _ _ => rfl) (by decide), fun s hnil => ?_, fun s x n hdin => ?_⟩
  · exact exec_unpad_of_none (by rw [hnil]; rfl)
  · have hlast : s.din.getLast? = some n := by rw [hdin, List.getLast?_concat]
    exact ⟨fun hbad => exec_unpad_of_none (unpadBytes_of_bad_count hlast hbad),
      fun hlo hhi hlen => exec_unpad_of_some (unpadBytes_of_count hlast hlo hhi hlen)⟩

/-- Settles O38: the count is `padCount`, and no multiple of 16 lies strictly between. -/
theorem padAppendsCountBytes : Obligations.PadAppendsCountBytes := by
  refine ⟨encodedZ_of_opcodeRow (fun _ _ => rfl) (by decide), fun s => ?_⟩
  obtain ⟨hlo, hhi⟩ := padCount_range s.din.length
  have hlen : s.din.length + padCount s.din.length = 16 * (s.din.length / 16 + 1) := by
    simpa [padBytes] using padBytes_length s.din
  exact ⟨padCount s.din.length, rfl, hlo, hhi, exec_pad s, by omega, fun m hm hmul => by omega⟩

end Sys2Proof.Machine
end

section
/-! The mode sequencer (46_modes.md). The chain of a message is the sequence of its values, one per block. A step that
undoes another makes a chain that undoes the other's; with `unpad` after `pad` that is the round trip of a message. -/

namespace Sys2Proof.Machine

/-! ### The block steps (R192-R199) -/

/-- Settles O43: each clause is one line of the mode table, with its engine output named. -/
theorem blockStepsFollowTheModeTable : Obligations.BlockStepsFollowTheModeTable := fun _ _ _ _ =>
  ⟨rfl, ⟨_, rfl, rfl⟩, ⟨_, _, rfl, rfl, rfl⟩, ⟨_, _, rfl, rfl, rfl⟩, rfl, ⟨_, rfl, rfl⟩, ⟨_, rfl, rfl⟩, ⟨_, rfl, rfl⟩,
    rfl⟩

theorem stepDec_ofb (E D : Block → Block) : stepDec E D .ofb = stepEnc E .ofb := rfl

/-- From every feedback `undo` recovers the block that `step` was given, and arrives at the same next feedback. -/
def StepUndoes (undo step : Block → Block → BlockStep) : Prop :=
  ∀ f p, (undo f (step f p).out).out = p ∧ (undo f (step f p).out).feedback = (step f p).feedback

/-- In OFB the feedback does not depend on the block, and the block meets the same key stream twice. -/
theorem stepUndoes_stepEnc_ofb (E : Block → Block) : StepUndoes (stepEnc E .ofb) (stepEnc E .ofb) :=
  fun f p => ⟨Block.xor_xor_cancel p (E f), rfl⟩

/-- Only ECB and CBC run the inverse direction; in CFB and OFB the key stream cancels. -/
theorem stepUndoes_stepDec_stepEnc {E D : Block → Block} (h : Function.LeftInverse D E) (m : Mode) :
    StepUndoes (stepDec E D m) (stepEnc E m) := by
  cases m with
  | ecb => exact fun f p => ⟨h p, rfl⟩
  | cbc =>
    refine fun f p => ⟨?_, rfl⟩
    calc (D (E (p.xor f))).xor f = (p.xor f).xor f := by rw [h]
      _ = p := Block.xor_xor_cancel p f
  | cfb => exact fun f p => ⟨Block.xor_xor_cancel p (E f), rfl⟩
  | ofb => exact stepUndoes_stepEnc_ofb E

/-! ### The chain over a sequence of blocks (R200, R201) -/

/-- A chain of steps that undo each step of another chain recovers the blocks, from the same first feedback. -/
theorem chainBlocks_blocks_of_stepUndoes {undo step : Block → Block → BlockStep} (h : StepUndoes undo step)
    (f e e' : Block) (ps : List Block) :
    (chainBlocks undo f e' (chainBlocks step f e ps).blocks).blocks = ps := by
  induction ps generalizing f e e' with
  | nil => rfl
  | cons p ps ih =>
    obtain ⟨hout, hfeedback⟩ := h f p
    simp only [chainBlocks_cons, hout, hfeedback, ih]

/-- Settles O49: the OFB step undoes itself, and both directions have it. -/
theorem ofbChainIsSelfInverse : Obligations.OfbChainIsSelfInverse := fun E D f e ps =>
  ⟨chainBlocks_blocks_of_stepUndoes (stepUndoes_stepEnc_ofb E) f e e ps, by rw [stepDec_ofb]⟩

theorem chainBlocks_concat (step : Block → Block → BlockStep) (f e : Block) (ps : List Block) (p : Block) :
    chainBlocks step f e (ps ++ [p]) =
      ⟨(chainBlocks step f e ps).blocks ++ [(step (chainBlocks step f e ps).feedback p).out],
        (step (chainBlocks step f e ps).feedback p).feedback, (step (chainBlocks step f e ps).feedback p).engine⟩ := by
  induction ps generalizing f e with
  | nil => rfl
  | cons q ps ih => simp only [List.cons_append, chainBlocks_cons, ih]

theorem chainBlocks_ecb_blocks (E : Block → Block) (f e : Block) (ps : List Block) :
    (chainBlocks (stepEnc E .ecb) f e ps).blocks = ps.map E := by
  induction ps generalizing f e with
  | nil => rfl
  | cons p ps ih => rw [chainBlocks_cons, ih]; rfl

/-! ### The values of a chain (R200, R201) -/

/-- The feedback before block step `i` of a chain over `input`, from feedback `f0`. -/
def chainFeedback (step : Block → Block → BlockStep) (f0 : Block) (input : Nat → Block) : Nat → Block
  | 0 => f0
  | i + 1 => (step (chainFeedback step f0 input i) (input i)).feedback

theorem exists_chainValues (step : Block → Block → BlockStep) (f0 : Block) (n : Nat) (input : Nat → Block) :
    ∃ f out e : Nat → Block, ChainValues step f0 n input f out e :=
  ⟨chainFeedback step f0 input, fun i => (step (chainFeedback step f0 input i) (input i)).out,
    fun i => (step (chainFeedback step f0 input i) (input i)).engine, rfl, fun _ _ => rfl⟩

theorem ChainValues.of_succ {step : Block → Block → BlockStep} {f0 : Block} {n : Nat} {input f out e : Nat → Block}
    (h : ChainValues step f0 (n + 1) input f out e) :
    ChainValues step f0 n input f out e ∧ step (f n) (input n) = ⟨out n, f (n + 1), e n⟩ := by
  obtain ⟨hzero, hstep⟩ := h
  exact ⟨⟨hzero, fun i hi => hstep i (by omega)⟩, hstep n (by omega)⟩

/-- The chain over the first `n` blocks of `input` yields the values; with no block, its engine output is `e0`. -/
theorem chainBlocks_map_range {step : Block → Block → BlockStep} {f0 : Block} {n : Nat} {input f out e : Nat → Block}
    (h : ChainValues step f0 n input f out e) (e0 : Block) :
    chainBlocks step f0 e0 ((List.range n).map input) =
      ⟨(List.range n).map out, f n, if n = 0 then e0 else e (n - 1)⟩ := by
  induction n with
  | zero =>
    obtain ⟨hzero, -⟩ := h
    simp [hzero]
  | succ n ih =>
    obtain ⟨hfirst, hlast⟩ := h.of_succ
    simp [List.range_succ, chainBlocks_concat, ih hfirst, hlast]

theorem takeBlocks_eq_map_range (n : Nat) (x : List Byte) :
    takeBlocks n x = (List.range n).map fun i => blockOfBytes (x.drop (16 * i)) := by
  refine List.ext_getElem? fun i => ?_
  by_cases hi : i < n
  · rw [getElem?_takeBlocks n i x hi]
    simp [hi]
  · simp [hi]

theorem blocksOf_eq_takeBlocks {x : List Byte} {n : Nat} (h : x.length = 16 * n) : blocksOf x = takeBlocks n x := by
  rw [blocksOf, h, Nat.mul_div_cancel_left n (by decide)]

theorem bytesOfBlocks_map (out : Nat → Block) (is : List Nat) :
    bytesOfBlocks (is.map out) = is.flatMap fun i => blockBytes (out i) := by
  rw [bytesOfBlocks, List.flatMap_map]

theorem chainBlocks_blocksOf {step : Block → Block → BlockStep} {f0 : Block} {n : Nat} {x : List Byte}
    {f out e : Nat → Block} (hx : x.length = 16 * n)
    (h : ChainValues step f0 n (fun i => blockOfBytes (x.drop (16 * i))) f out e) (e0 : Block) :
    chainBlocks step f0 e0 (blocksOf x) = ⟨(List.range n).map out, f n, if n = 0 then e0 else e (n - 1)⟩ := by
  rw [blocksOf_eq_takeBlocks hx, takeBlocks_eq_map_range, chainBlocks_map_range h]

/-! ### `MINIT` (R191) -/

theorem feedback_mode_of_operand {a : Byte} {m : Mode}
    (h : (a, m) = (1, .cbc) ∨ (a, m) = (2, .cfb) ∨ (a, m) = (3, .ofb)) :
    modeOfOperand a = some m ∧ m ≠ .ecb := by
  obtain h | h | h := h <;> cases h <;> decide

theorem exec_minit_of_unsupported {a b : Byte} {s : State} (ha : 3 < a.toNat) :
    exec (.minit a b) s = .next (s.setResp 0x05) :=
  exec_of_firstError_eq_some (e := .unsupportedMode) (by simp [firstError, errorsOf, errorApplies, modeUnsupported, ha])

section
variable {a : Byte} {m : Mode} (hm : modeOfOperand a = some m) (hfb : m ≠ .ecb)
include hm hfb

theorem execMinit_of_feedback_mode (b : Byte) (s : State) :
    execMinit a b s =
      if ivFromDin b then
        (dinBlock s).elim (raiseError .invalidIVLength s) fun iv => complete (s.setMode m iv true)
      else complete ((s.setMode m (nextRnd s.rng) true).setRng (afterDraw s.rng)) := by
  rw [execMinit, hm]
  cases m with
  | ecb => exact absurd rfl hfb
  | cbc | cfb | ofb => cases dinBlock s <;> rfl

theorem exec_minit_of_bad_length {s : State} (hdin : s.din.length ≠ 16) :
    exec (.minit a 0) s = .next (s.setResp 0x06) := by
  rw [exec, execMinit_of_feedback_mode hm hfb, dinBlock_of_length_ne s hdin]
  rfl

theorem exec_minit_of_din {s : State} (hdin : s.din.length = 16) :
    exec (.minit a 0) s = .next ((s.setMode m (blockOfBytes s.din) true).setResp 0x00) := by
  rw [exec, execMinit_of_feedback_mode hm hfb, dinBlock_of_length s hdin]
  rfl

theorem exec_minit_of_draw (s : State) :
    exec (.minit a 1) s = .next (((s.setMode m (nextRnd s.rng) true).setRng (afterDraw s.rng)).setResp 0x00) := by
  rw [exec, execMinit_of_feedback_mode hm hfb]
  rfl

end

/-- Settles O41: the three feedback modes differ in the mode number alone. -/
theorem minitSetsModeAndIv : Obligations.MinitSetsModeAndIv := by
  refine ⟨encodedAB_of_opcodeRow (fun _ _ => rfl) (by simp), fun a b s ha => exec_minit_of_unsupported ha,
    fun b s => rfl, fun a m s hmode => ?_⟩
  obtain ⟨hm, hfb⟩ := feedback_mode_of_operand hmode
  refine ⟨fun hdin => exec_minit_of_bad_length hm hfb hdin, fun hdin v hv => ?_, fun v hv => ?_⟩
  · obtain rfl : v = blockOfBytes s.din :=
      block_ext_byteAt fun i hi => (hv i hi).trans (byteAt_blockOfBytes s.din i hi).symm
    exact exec_minit_of_din hm hfb hdin
  · rw [hv]
    exact exec_minit_of_draw hm hfb s

/-! ### How the commands that need a mode layer answer (R200, R201, R203) -/

theorem exec_of_needsMissing {i : Instr} {s : State} {es : List Error} (herr : errorsOf i = .notReady :: es)
    (hneeds : needsMissing i s = true) : exec i s = .next (s.setResp 0x07) :=
  exec_of_firstError_eq_some (e := .notReady) (by simp [firstError, herr, errorApplies, hneeds])

/-- Settles O46: `IVREAD` has the one error `NotReady`. -/
theorem ivreadReturnsConstructedIv : Obligations.IvreadReturnsConstructedIv := by
  refine ⟨encodedZ_of_opcodeRow (fun _ _ => rfl) (by decide), fun s => ⟨fun h => ?_, fun hmode hiv => ?_⟩⟩
  · exact exec_of_needsMissing rfl (by simp [needsMissing, h])
  · exact exec_of_firstError_eq_none (by simp [firstError, errorsOf, errorApplies, needsMissing, hmode, hiv])

section
variable {s : State} (hkey : s.keyValid = true) (hmode : s.modeValid = true)
include hkey hmode

theorem exec_menc_of_ready :
    exec .menc s = .next ((commitMessage s (encryptChain s (blocksOf (padBytes s.din)))
      (bytesOfBlocks (encryptChain s (blocksOf (padBytes s.din))).blocks)).setResp 0x00) :=
  exec_of_firstError_eq_none (by simp [firstError, errorsOf, errorApplies, needsMissing, hkey, hmode])

theorem exec_menc_output :
    ∃ t : State, exec .menc s = .next t ∧ t.resp = 0x00 ∧
      t.dout = bytesOfBlocks (encryptChain s (blocksOf (padBytes s.din))).blocks :=
  ⟨_, exec_menc_of_ready hkey hmode, rfl, rfl⟩

theorem exec_mdec_of_ragged (hdin : s.din.length % 16 ≠ 0) : exec .mdec s = .next (s.setResp 0x03) :=
  exec_of_firstError_eq_some (e := .invalidCiphertextLength)
    (by simp [firstError, errorsOf, errorApplies, needsMissing, hkey, hmode, hdin])

theorem exec_mdec_of_unpad_none (hdin : s.din.length % 16 = 0)
    (hpad : unpadBytes (bytesOfBlocks (decryptChain s (blocksOf s.din)).blocks) = none) :
    exec .mdec s = .next (s.setResp 0x04) :=
  exec_of_firstError_eq_some (e := .paddingError)
    (by simp [firstError, errorsOf, errorApplies, needsMissing, paddedInput, hkey, hmode, hdin, hpad])

theorem exec_mdec_of_unpad_some {r : List Byte} (hdin : s.din.length % 16 = 0)
    (hpad : unpadBytes (bytesOfBlocks (decryptChain s (blocksOf s.din)).blocks) = some r) :
    exec .mdec s = .next ((commitMessage s (decryptChain s (blocksOf s.din)) r).setResp 0x00) := by
  have hok : firstError .mdec s = none := by
    simp [firstError, errorsOf, errorApplies, needsMissing, paddedInput, hkey, hmode, hdin, hpad]
  rw [exec_of_firstError_eq_none hok, committed, hpad, Option.getD_some]

end

/-! ### `MENC` and `MDEC` by the values of the chain (R200, R201) -/

theorem commitMessage_setResp (s : State) (r : ChainRun) (out : List Byte) (resp : Byte) :
    (commitMessage s r out).setResp resp = { s with
      fb := if s.mode = .ecb then s.fb else r.feedback, state := r.engine, dout := out, resp := resp } := rfl

/-- Settles O44: the padded message has at least one block, so the chain has a last engine output. -/
theorem mencPadsThenChains : Obligations.MencPadsThenChains := by
  refine ⟨encodedZ_of_opcodeRow (fun _ _ => rfl) (by decide),
    fun s h => exec_of_needsMissing rfl (by simp [needsMissing, h]), fun s n hkey hmode hn => ?_⟩
  obtain ⟨f, c, e, hvalues⟩ := exists_chainValues (stepEnc (encrypt s.w s.nr.toNat) s.mode) s.iv n
    fun i => blockOfBytes ((padBytes s.din).drop (16 * i))
  have hlength : (padBytes s.din).length = 16 * n := by rw [padBytes_length, hn]
  have hchain : encryptChain s (blocksOf (padBytes s.din)) =
      ⟨(List.range n).map c, f n, if n = 0 then s.state else e (n - 1)⟩ := chainBlocks_blocksOf hlength hvalues s.state
  have hne : n ≠ 0 := by omega
  refine ⟨f, c, e, hvalues, ?_⟩
  rw [exec_menc_of_ready hkey hmode, hchain, bytesOfBlocks_map, commitMessage_setResp, if_neg hne]

theorem unpadBytes_nil : unpadBytes [] = none := rfl

/-- Settles O45: the chain's blocks are the padded message; where `unpad` strips it there is at least one block, so the
chain has a last engine output. -/
theorem mdecChainsThenUnpads : Obligations.MdecChainsThenUnpads := by
  refine ⟨encodedZ_of_opcodeRow (fun _ _ => rfl) (by decide),
    fun s h => exec_of_needsMissing rfl (by simp [needsMissing, h]),
    fun s hkey hmode hdin => exec_mdec_of_ragged hkey hmode hdin, fun s n hkey hmode hdin => ?_⟩
  obtain ⟨f, x, e, hvalues⟩ := exists_chainValues (stepDec (encrypt s.w s.nr.toNat) (decrypt s.w s.nr.toNat) s.mode)
    s.iv n fun i => blockOfBytes (s.din.drop (16 * i))
  have hwhole : s.din.length % 16 = 0 := by omega
  have hchain : decryptChain s (blocksOf s.din) =
      ⟨(List.range n).map x, f n, if n = 0 then s.state else e (n - 1)⟩ := chainBlocks_blocksOf hdin hvalues s.state
  have hbytes : bytesOfBlocks (decryptChain s (blocksOf s.din)).blocks =
      (List.range n).flatMap fun i => blockBytes (x i) := by
    rw [hchain, bytesOfBlocks_map]
  refine ⟨f, x, e, _, hvalues, rfl, fun hpad => ?_, fun r hpad => ?_⟩
  · exact exec_mdec_of_unpad_none hkey hmode hwhole (by rw [hbytes, hpad])
  · have hne : n ≠ 0 := by
      rintro rfl
      exact absurd (unpadBytes_nil.symm.trans hpad) (by simp)
    rw [exec_mdec_of_unpad_some hkey hmode hwhole (by rw [hbytes, hpad]), hchain, commitMessage_setResp, if_neg hne]

/-! ### The round trip (R205 (a)) -/

theorem decryptChain_encryptChain {s u : State} (hw : u.w = s.w) (hnr : u.nr = s.nr) (hmode : u.mode = s.mode)
    (hiv : u.iv = s.iv) (ps : List Block) : (decryptChain u (encryptChain s ps).blocks).blocks = ps := by
  rw [decryptChain, encryptChain, hw, hnr, hmode, hiv]
  exact chainBlocks_blocks_of_stepUndoes (stepUndoes_stepDec_stepEnc (decrypt_encrypt s.w s.nr.toNat) s.mode) _ _ _ _

theorem exec_mdec_of_padded_message {u : State} {x : List Byte} (hkey : u.keyValid = true) (hmode : u.modeValid = true)
    (hdin : u.din.length % 16 = 0) (hchain : (decryptChain u (blocksOf u.din)).blocks = blocksOf (padBytes x)) :
    ∃ v : State, exec .mdec u = .next v ∧ v.resp = 0x00 ∧ v.dout = x := by
  have hwhole : (padBytes x).length % 16 = 0 := by rw [padBytes_length]; omega
  have hpad : unpadBytes (bytesOfBlocks (decryptChain u (blocksOf u.din)).blocks) = some x := by
    rw [hchain, bytesOfBlocks_blocksOf _ hwhole, unpadBytes_padBytes]
  exact ⟨_, exec_mdec_of_unpad_some hkey hmode hdin hpad, rfl, rfl⟩

/-- Settles O47: the decrypt chain recovers the padded message, and `unpad` undoes `pad`. -/
theorem messageRoundTrip : Obligations.MessageRoundTrip := by
  intro s u hskey hsmode hukey humode hw hnr hmode hiv
  obtain ⟨t, hmenc, htresp, htdout⟩ := exec_menc_output hskey hsmode
  have hchain : (decryptChain { u with din := t.dout } (blocksOf t.dout)).blocks = blocksOf (padBytes s.din) := by
    rw [htdout, blocksOf_bytesOfBlocks]
    exact decryptChain_encryptChain hw hnr hmode hiv _
  obtain ⟨v, hmdec, hvresp, hvdout⟩ :=
    exec_mdec_of_padded_message (u := { u with din := t.dout }) hukey humode (by simp [htdout]) hchain
  exact ⟨t, v, hmenc, htresp, hmdec, hvresp, hvdout⟩

/-! ### Equal blocks under ECB (R205 (b)) -/

theorem blockOfBytes_take (x : List Byte) : blockOfBytes (x.take 16) = blockOfBytes x :=
  block_ext_byteAt fun i hi => by
    simp only [byteAt_blockOfBytes _ _ hi, List.getD_eq_getElem?_getD, List.getElem?_take, if_pos hi]

/-- The sixteen bytes at offset `16 i` of a sequence of blocks are those of block `i`. -/
theorem bytesOfBlocks_drop_take {bs : List Block} {i : Nat} {b : Block} (h : bs[i]? = some b) :
    ((bytesOfBlocks bs).drop (16 * i)).take 16 = blockBytes b := by
  induction bs generalizing i with
  | nil => simp at h
  | cons c bs ih =>
    cases i with
    | zero =>
      obtain rfl : c = b := by simpa using h
      exact List.take_left' (blockBytes_length c)
    | succ i =>
      have hdrop : (blockBytes c ++ bytesOfBlocks bs).drop (16 * (i + 1)) = (bytesOfBlocks bs).drop (16 * i) := by
        have hoffset : 16 * (i + 1) = (blockBytes c).length + 16 * i := by rw [blockBytes_length]; omega
        rw [hoffset, List.drop_length_add_append]
      rw [bytesOfBlocks_cons, hdrop, ih (by simpa using h)]

/-- Under ECB block `i` of the output of `MENC` is the encryption of block `i` of the padded message (R192). -/
theorem exec_menc_ecb_block {s t : State} {i : Nat} (hkey : s.keyValid = true) (hmode : s.modeValid = true)
    (hecb : s.mode = .ecb) (h : exec .menc s = .next t) (hi : i ≤ s.din.length / 16) :
    (t.dout.drop (16 * i)).take 16 =
      blockBytes (encrypt s.w s.nr.toNat (blockOfBytes (((padBytes s.din).drop (16 * i)).take 16))) := by
  rw [exec_menc_of_ready hkey hmode] at h
  cases h
  refine bytesOfBlocks_drop_take ?_
  rw [encryptChain, hecb, chainBlocks_ecb_blocks, blocksOf_eq_takeBlocks (padBytes_length s.din), List.getElem?_map,
    getElem?_takeBlocks _ i _ (by omega), blockOfBytes_take]
  rfl

/-- Settles O48: what stands at an offset of the output depends on the block at that offset alone. -/
theorem ecbEncryptsEqualBlocksAlike : Obligations.EcbEncryptsEqualBlocksAlike := by
  intro s t i j hkey hmode hecb h hi hj hequal
  rw [exec_menc_ecb_block hkey hmode hecb h hi, exec_menc_ecb_block hkey hmode hecb h hj, hequal]

/-! ### The first block in CFB and OFB (R205 (d)) -/

theorem chainBlocks_head (step : Block → Block → BlockStep) (f e : Block) {n : Nat} {x : List Byte}
    (hx : x.length = 16 * (n + 1)) :
    (bytesOfBlocks (chainBlocks step f e (blocksOf x)).blocks).take 16 = blockBytes (step f (blockOfBytes x)).out := by
  rw [blocksOf_eq_takeBlocks hx, takeBlocks, chainBlocks_cons, bytesOfBlocks_cons]
  exact List.take_left' (blockBytes_length _)

/-- The first sixteen bytes of the output of `MENC` are those of the first block step, from `IV`. -/
theorem exec_menc_first_block {s : State} (hkey : s.keyValid = true) (hmode : s.modeValid = true) :
    ∃ t : State, exec .menc s = .next t ∧ t.resp = 0x00 ∧ t.dout.take 16 =
      blockBytes (stepEnc (encrypt s.w s.nr.toNat) s.mode s.iv (blockOfBytes (padBytes s.din))).out :=
  ⟨_, exec_menc_of_ready hkey hmode, rfl, chainBlocks_head _ _ _ (padBytes_length s.din)⟩

/-- Settles O50: the first block steps of the two modes have the same output; they differ in the feedback. -/
theorem cfbAndOfbAgreeOnFirstBlock : Obligations.CfbAndOfbAgreeOnFirstBlock := by
  intro s hkey hmode
  obtain ⟨t, hcfb, ht, htake⟩ := exec_menc_first_block (s := { s with mode := .cfb }) hkey hmode
  obtain ⟨u, hofb, hu, hutake⟩ := exec_menc_first_block (s := { s with mode := .ofb }) hkey hmode
  refine ⟨t, u, hcfb, hofb, ht, hu, ?_, ?_⟩
  · rw [htake, hutake]
    rfl
  · rw [htake, blockBytes_length]

end Sys2Proof.Machine
end

section
/-! The system command `STAT` (47_system.md). -/

namespace Sys2Proof.Machine

/-- `STAT` has no errors, so it commits its status bytes in every state (R215). -/
theorem exec_stat (s : State) : exec .stat s = .next ((s.setDout (statusBytes s)).setResp 0x00) :=
  exec_of_firstError_eq_none rfl

/-- Settles O53: the one row of the opcode map, and the status bytes are those listed, flags and mode as their numbers. -/
theorem statReportsConfiguration : Obligations.StatReportsConfiguration :=
  ⟨encodedZ_of_opcodeRow (fun _ _ => rfl) (by decide), exec_stat⟩

end Sys2Proof.Machine
end

section
/-! Exceptions and the host's actions (60_exceptions.md): how a command answers its first error, a word that is no command,
the injection of random bytes, and the encryption that a host walks by hand. -/

namespace Sys2Proof.Machine

/-! ### A command's answer (R226, R228) -/

/-- Settles O54: a command is rejected with its first error, which is one of its errors, or it commits. -/
theorem rejectedCommandChangesOnlyResp : Obligations.RejectedCommandChangesOnlyResp := by
  intro i s
  cases h : firstError i s with
  | some e => exact ⟨_, exec_of_firstError_eq_some h, .inr ⟨e, List.mem_of_find?_eq_some h, rfl⟩⟩
  | none => exact ⟨_, exec_of_firstError_eq_none h, .inl rfl⟩

/-! ### Words that are no command (R232) -/

theorem hostIssue_of_decode_error {cmd : CmdWord} {e : DecodeError} (h : decode cmd = .error e) (s : State) :
    hostIssue cmd s = raiseError .illegalCommand s := by
  simp only [hostIssue, h]

theorem step_of_decode_error {s : State} {cmd : CmdWord} {e : DecodeError} {rest : List HostAction}
    (hp : s.host.pending = .issue cmd :: rest) (h : decode cmd = .error e) :
    step s = .next { s with host := ⟨rest, s.host.readings⟩, resp := 0x08 } :=
  (step_of_pending hp).trans (hostIssue_of_decode_error h _)

/-- Settles O55: the decoder's error is answered before any command runs; a command answers its first error. -/
theorem firstApplicableErrorIsReported : Obligations.FirstApplicableErrorIsReported := by
  refine ⟨fun i s => ?_, fun s cmd e rest hp hdec => step_of_decode_error hp hdec⟩
  cases h : firstError i s with
  | some e => exact ⟨_, exec_of_firstError_eq_some h, fun e' he => by cases he; rfl, nofun⟩
  | none => exact ⟨_, exec_of_firstError_eq_none h, nofun, fun _ => rfl⟩

/-- A word that the decoder takes for a command matches that command's row of the table. -/
theorem exists_row_of_decode_eq_ok {cmd : CmdWord} {i : Instr} (h : decode cmd = .ok i) :
    ∃ r ∈ opcodeTable, r.matches cmd = true := by
  obtain ⟨r, hr, hmatch, -⟩ := (decoderAgreesWithOpcodeTable cmd (mnemonicOf i)).mp ⟨i, h, rfl⟩
  exact ⟨r, hr, hmatch⟩

/-- Settles O7: a word without a row does not decode. -/
theorem wordOutsideTheTableIsRejected : Obligations.WordOutsideTheTableIsRejected := by
  intro s cmd rest hp hnone
  cases hdec : decode cmd with
  | error e => exact step_of_decode_error hp hdec
  | ok i =>
    obtain ⟨r, hr, hmatch⟩ := exists_row_of_decode_eq_ok hdec
    exact absurd hmatch (by simp [hnone r hr])

/-! ### The host's actions and the random source (R230, R240) -/

theorem step_of_nothing_pending {s : State} (h : s.host.pending = []) : step s = .next s := by
  obtain ⟨-, hidle⟩ | ⟨action, rest, hcons, -⟩ := step_cases s
  · exact hidle
  · rw [h] at hcons; cases hcons

/-- Settles O5: an idle step changes nothing, and the injection replaces the random source. -/
theorem coreChangesOnlyByHostActions : Obligations.CoreChangesOnlyByHostActions :=
  fun _ => ⟨step_of_nothing_pending, fun _ _ hp => step_of_pending hp⟩

theorem exists_feedback_mode_of_operand {a : Byte} (hlo : 1 ≤ a.toNat) (hhi : a.toNat ≤ 3) :
    ∃ m, modeOfOperand a = some m ∧ m ≠ .ecb := by
  obtain ⟨rfl, -⟩ | ⟨-, hm⟩ | ⟨-, hm⟩ | ⟨-, hm⟩ | ⟨ha, -⟩ := modeOfOperand_cases a
  · exact absurd hlo (by decide)
  · exact ⟨_, hm, nofun⟩
  · exact ⟨_, hm, nofun⟩
  · exact ⟨_, hm, nofun⟩
  · omega

theorem nextRnd_of_injected {g : RandomSource} {rnd : Block} (h : g.injected = some rnd) : nextRnd g = rnd := by
  rw [nextRnd, h]

theorem exec_rng {i : Instr} {s t : State} (hi : drawsRnd i = false) (h : exec i s = .next t) : t.rng = s.rng := by
  obtain ⟨-, -, -, -, -, -, -, -, hrng⟩ := exec_writesOnlyMarked h
  exact hrng hi

/-- Settles O42: a drawing `MINIT` takes the injected block, and the random source is marked "w" for no other command. -/
theorem randomSourceServesMinitAlone : Obligations.RandomSourceServesMinitAlone := by
  refine ⟨fun s a rnd hlo hhi hinj => ?_, fun i s t hi h => exec_rng hi h⟩
  obtain ⟨m, hm, hfb⟩ := exists_feedback_mode_of_operand hlo hhi
  have hrnd : nextRnd s.rng = rnd := nextRnd_of_injected hinj
  exact ⟨_, exec_minit_of_draw hm hfb s, rfl, hrnd, hrnd, rfl⟩

/-! ### An encryption walked by hand (R244, program P2) -/

theorem toNat_ofNat_of_le_byte {r : Nat} {b : Byte} (h : r ≤ b.toNat) : (BitVec.ofNat 8 r).toNat = r := by
  rw [BitVec.toNat_ofNat, Nat.mod_eq_of_lt (by omega)]

section
variable {s : State} (hkey : s.keyValid = true)
include hkey

/-- The operand of a command with a legal round-key index does not wrap. -/
theorem transformsState_roundKeyCommand_ofNat {r : Nat} {i : Instr} {f : Block → Block → Block}
    (hi : (i, f) ∈ roundKeyCommands (BitVec.ofNat 8 r)) (hr : r ≤ s.nr.toNat) :
    TransformsState s i (f · (roundKey s.w r)) := by
  have hindex : (BitVec.ofNat 8 r).toNat = r := toNat_ofNat_of_le_byte hr
  simpa only [hindex] using transformsState_roundKeyCommand hi hkey (by rwa [hindex])

/-- `FROUND 1 .. n` are the first `n` full rounds. -/
theorem runCommands_frounds {n : Nat} (hn : n ≤ s.nr.toNat) (is : List Instr) (x : Block) :
    runCommands ((List.range n).map (fun r => Instr.fround (BitVec.ofNat 8 (r + 1))) ++ is)
        ((s.setState x).setResp 0x00) =
      runCommands is ((s.setState (forwardRounds s.w n x)).setResp 0x00) := by
  induction n generalizing is with
  | zero => rfl
  | succ n ih =>
    have hround : TransformsState s (.fround (BitVec.ofNat 8 (n + 1))) (fRound · (roundKey s.w (n + 1))) :=
      transformsState_roundKeyCommand_ofNat hkey (by simp [roundKeyCommands]) hn
    rw [List.range_succ, List.map_append, List.append_assoc, ih (by omega)]
    exact runCommands_cons_of_transformsState hround is _ _

/-- The walk leaves the encryption of the block in `DIN` in `STATE`. -/
theorem runCommands_handWalk (hdin : s.din.length = 16) :
    runCommands (handWalk s.nr.toNat) s =
      some ((s.setState (encrypt s.w s.nr.toNat (blockOfBytes s.din))).setResp 0x00) := by
  have hload : TransformsState s .stload fun _ => blockOfBytes s.din := fun x resp =>
    exec_stload_of_length (s := (s.setState x).setResp resp) hdin
  have hinit : TransformsState s (.addrk 0) (addRoundKey · (roundKey s.w 0)) :=
    transformsState_roundKeyCommand_ofNat (r := 0) hkey (by simp [roundKeyCommands]) (Nat.zero_le _)
  have hfinal : TransformsState s (.ffinal (BitVec.ofNat 8 s.nr.toNat)) (fFinal · (roundKey s.w s.nr.toNat)) :=
    transformsState_roundKeyCommand_ofNat hkey (by simp [roundKeyCommands]) le_rfl
  rw [handWalk, List.append_assoc, List.cons_append, List.cons_append, List.nil_append]
  calc runCommands (.stload :: .addrk 0 :: _) ((s.setState s.state).setResp s.resp)
      = runCommands _ ((s.setState (addRoundKey (blockOfBytes s.din) (roundKey s.w 0))).setResp 0x00) := by
        rw [runCommands_cons_of_transformsState hload, runCommands_cons_of_transformsState hinit]
    _ = some ((s.setState (encrypt s.w s.nr.toNat (blockOfBytes s.din))).setResp 0x00) := by
        rw [runCommands_frounds hkey (Nat.sub_le _ _), runCommands_cons_of_transformsState hfinal, encrypt, runCommands]

end

/-- Settles O37: the walk goes through the rounds of the engine, and writes `STATE` alone. -/
theorem handWalkEqualsEncb : Obligations.HandWalkEqualsEncb := fun s hkey hdin _ =>
  ⟨_, _, runCommands_handWalk hkey hdin, (runsEngine_encb s).exec_of_length rfl rfl hkey hdin, rfl, rfl, rfl, rfl⟩

end Sys2Proof.Machine
end

section
/-! Reset and hazards (70_reset_and_hazards.md): what a reset does and what only a reset does, and what depends on `IV`. -/

namespace Sys2Proof.Machine

/-! ### Reset (R250, R251) -/

/-- Settles O2: the reset takes the registers of `State.reset`, which are literals. -/
theorem hostResetRestoresResetState : Obligations.HostResetRestoresResetState :=
  fun _ _ hp => ⟨step_of_pending hp, step_of_pending hp⟩

/-- From `s` to `t` neither `KEY_VALID` nor `MODE_VALID` goes from 1 to 0. -/
def KeepsValidFlags (s t : State) : Prop :=
  (s.keyValid = true → t.keyValid = true) ∧ (s.modeValid = true → t.modeValid = true)

theorem KeepsValidFlags.refl (s : State) : KeepsValidFlags s s := ⟨id, id⟩

theorem keyCommit_keyValid {s : State} (h : s.keyValid = true) : (keyCommit s).keyValid = true := by
  cases hp : keyParams s.din.length with
  | none => simpa [keyCommit, hp] using h
  | some p => simp [keyCommit, hp]

theorem committed_keyValid (i : Instr) {s : State} (h : s.keyValid = true) : (committed s i).keyValid = true := by
  by_cases hi : writesKey i = true
  · obtain rfl : i = .keyload := of_decide_eq_true hi
    exact keyCommit_keyValid h
  · obtain ⟨-, -, -, -, -, hkey, -⟩ := committed_writesOnlyMarked i s
    obtain ⟨-, hsame, -⟩ := hkey (by simpa using hi)
    rw [hsame, h]

theorem modeCommit_modeValid (a b : Byte) {s : State} (h : s.modeValid = true) :
    (modeCommit a b s).modeValid = true := by
  unfold modeCommit
  split
  case h_1 => exact h
  case h_2 => rfl
  case h_3 => split <;> rfl

theorem committed_modeValid (i : Instr) {s : State} (h : s.modeValid = true) : (committed s i).modeValid = true := by
  by_cases hi : writesMode i = true
  · cases i with
    | minit a b => exact modeCommit_modeValid a b h
    | _ => cases hi
  · obtain ⟨-, -, -, -, -, -, hmode, -⟩ := committed_writesOnlyMarked i s
    obtain ⟨-, hsame, -⟩ := hmode (by simpa using hi)
    rw [hsame, h]

theorem exec_keepsValidFlags {i : Instr} {s t : State} (h : exec i s = .next t) : KeepsValidFlags s t := by
  obtain ⟨e, -, rfl⟩ | ⟨-, rfl⟩ := exec_cases h
  · exact .refl s
  · exact ⟨committed_keyValid i, committed_modeValid i⟩

theorem hostIssue_keepsValidFlags {cmd : CmdWord} {s t : State} (h : hostIssue cmd s = .next t) :
    KeepsValidFlags s t := by
  obtain ⟨e, -, hr⟩ | ⟨i, -, hi⟩ := hostIssue_cases cmd s
  · cases hr.symm.trans h
    exact .refl s
  · obtain ⟨hx, -⟩ := (withinCapacity_next _ _).mp (hi.symm.trans h)
    exact exec_keepsValidFlags hx

theorem hostWriteDin_keepsValidFlags {x : List Byte} {s t : State} (h : hostWriteDin x s = .next t) :
    KeepsValidFlags s t := by
  cases hfit : fitsCapacity s.bufcap x.length with
  | true =>
    cases (hostWriteDin_of_fits hfit).symm.trans h
    exact .refl s
  | false => cases (hostWriteDin_of_not_fits hfit).symm.trans h

theorem hostAct_keepsValidFlags {action : HostAction} {s t : State} (hne : action ≠ .reset)
    (h : hostAct action s = .next t) : KeepsValidFlags s t := by
  cases action with
  | reset => exact absurd rfl hne
  | writeDin x => exact hostWriteDin_keepsValidFlags h
  | issue cmd => exact hostIssue_keepsValidFlags h
  | readResp | readDout | supplyRnd => cases h; exact .refl s

/-- Settles O60: taking the action off the host's list changes no flag, and no action but a reset clears one. -/
theorem onlyResetClearsValidFlags : Obligations.OnlyResetClearsValidFlags := by
  intro s t h hnoreset
  obtain ⟨-, hidle⟩ | ⟨action, rest, hp, hact⟩ := step_cases s
  · cases hidle.symm.trans h
    exact KeepsValidFlags.refl s
  · have hne : action ≠ .reset := fun hreset => hnoreset rest (by rw [hp, hreset])
    exact hostAct_keepsValidFlags (s := s.setHost ⟨rest, s.host.readings⟩) hne (hact.symm.trans h)

/-! ### Every message starts from `IV` (R264) -/

theorem ChainRun.eq_of_fields {r r' : ChainRun} (hblocks : r.blocks = r'.blocks) (hfeedback : r.feedback = r'.feedback)
    (hengine : r.engine = r'.engine) : r = r' := by
  cases r; cases r'
  rw [ChainRun.mk.injEq]
  exact ⟨hblocks, hfeedback, hengine⟩

/-- The chain of `MENC` depends on the key, the mode and `IV` alone. -/
theorem encryptChain_eq_of_ne_nil {s t : State} (hw : s.w = t.w) (hnr : s.nr = t.nr) (hmode : s.mode = t.mode)
    (hiv : s.iv = t.iv) {ps : List Block} (hne : ps ≠ []) : encryptChain s ps = encryptChain t ps := by
  obtain ⟨hblocks, hfeedback, hengine⟩ := encryptChain_congr hw hnr hmode hiv ps
  exact ChainRun.eq_of_fields hblocks hfeedback (hengine hne)

/-- Committing the same run and the same output again changes nothing. -/
theorem commitMessage_idem (s : State) (r : ChainRun) (out : List Byte) (resp : Byte) :
    (commitMessage ((commitMessage s r out).setResp resp) r out).setResp resp =
      (commitMessage s r out).setResp resp := by
  by_cases h : s.mode = .ecb <;> simp [commitMessage_setResp, h]

/-- `MENC` changes neither `DIN` nor what its chain depends on, so what it commits is committed again by the next one. -/
theorem committed_menc_idem (s : State) (resp : Byte) :
    (committed ((committed s .menc).setResp resp) .menc).setResp resp = (committed s .menc).setResp resp := by
  have hchain : encryptChain ((committed s .menc).setResp resp) (blocksOf (padBytes s.din)) =
      encryptChain s (blocksOf (padBytes s.din)) :=
    encryptChain_eq_of_ne_nil (s := (committed s .menc).setResp resp) (t := s) rfl rfl rfl rfl
      (blocksOf_padBytes_ne_nil s.din)
  have hdin : ((committed s .menc).setResp resp).din = s.din := rfl
  rw [committed, hdin, hchain]
  exact commitMessage_idem _ _ _ _

/-- Settles O51: the state that `MENC` leaves has the key and the mode layer still, and the second run commits the same. -/
theorem repeatedMencRepeatsItsResult : Obligations.RepeatedMencRepeatsItsResult := by
  intro s hkey hmode
  refine ⟨(committed s .menc).setResp 0x00, exec_menc_of_ready hkey hmode, rfl, ?_⟩
  calc exec .menc ((committed s .menc).setResp 0x00)
      = .next ((committed ((committed s .menc).setResp 0x00) .menc).setResp 0x00) := exec_menc_of_ready hkey hmode
    _ = .next ((committed s .menc).setResp 0x00) := by rw [committed_menc_idem]

/-! ### A wrong `IV` (R265) -/

theorem encrypt_injective (w : Vector Word 60) (nr : Nat) : Function.Injective (encrypt w nr) :=
  Function.LeftInverse.injective (decrypt_encrypt w nr)

section
variable {m : Mode} (hm : m = .cbc ∨ m = .cfb) {E : Block → Block} (D : Block → Block)
include hm

/-- In CBC and CFB the feedback after a block is the ciphertext block, whatever it was before. -/
theorem stepDec_feedback (f c : Block) : (stepDec E D m f c).feedback = c := by
  obtain rfl | rfl := hm <;> rfl

/-- In CBC and CFB two feedback values never recover the same block. -/
theorem stepDec_out_injective (hE : Function.Injective E) (c : Block) :
    Function.Injective fun f => (stepDec E D m f c).out := by
  intro f f' h
  obtain rfl | rfl := hm
  · exact (Block.xor_left_inj (D c) f f').mp h
  · exact hE ((Block.xor_left_inj c (E f) (E f')).mp h)

end

/-- Settles O52: from the first ciphertext block on the two chains have the same feedback. -/
theorem wrongIvSpoilsFirstBlockOnly : Obligations.WrongIvSpoilsFirstBlockOnly := by
  intro s iv cs hm
  cases cs with
  | nil => exact ⟨rfl, fun hne => absurd rfl hne⟩
  | cons c cs =>
    simp only [decryptChain, chainBlocks_cons, List.tail_cons, List.head?_cons, stepDec_feedback hm]
    refine ⟨(chainBlocks_engine_irrelevant _ _ _ _ _).1, fun _ hiv hfirst => hiv ?_⟩
    exact stepDec_out_injective hm _ (encrypt_injective s.w s.nr.toNat) c (Option.some.inj hfirst)

end Sys2Proof.Machine
end
